-- ==== Sys2Proof/Word.lean ====
section
/-!
DEFINITION. The bit formats of the block (30_encoding.md R60), the detent, the two handler contexts, and a delivered
word. Bit 0 is the least significant bit of every value (R8).
-/

namespace Sys2Proof

/-- Format S2: a sample or a history. Bit 0 = line A, bit 1 = line B (R61, R62). -/
abbrev Sample := BitVec 2

/-- Format TI4: a TransitionIndex, bits pB pA cB cA from 3 down to 0 (R63). -/
abbrev Index := BitVec 4

/-- Format ST2: a step in bits (R64). -/
abbrev StepBits := BitVec 2

/-- Format DT2: a detent result in bits (R66). -/
abbrev DetentBits := BitVec 2

/-- Format A4: the accumulator, two's complement (R22). -/
abbrev Acc := BitVec 4

/-- Format P32: a number of ticks, unsigned (R67). -/
abbrev Ticks := BitVec 32

/-- Format EV36: an event word, op in bits 35:32, arg in bits 31:0 (R68). -/
abbrev EventBits := BitVec 36

/-- A detent event: `cw` has positive sign, `ccw` negative; the names are labels of the sign only (R4(e), R14, R130). -/
inductive Detent where
  | cw
  | ccw
  deriving DecidableEq, Repr

/-- The two interrupt contexts (R203); used only to give `PRIO` a type. -/
inductive Handler where
  | encoder
  | tick
  deriving DecidableEq, Repr, Inhabited

/-- What can be presented to the block: a transition code (format TI4), an event word (format EV36), or bits that fit
neither format. DESIGN CHOICE (log entry 22): the third constructor makes the decoder total on words of any width. -/
inductive EventWord where
  | ti4 (ti : Index)
  | ev36 (w : EventBits)
  | malformed (nbits w : Nat)
  deriving DecidableEq, Repr

end Sys2Proof
end

