-- ==== Sys2Proof/Syntax.lean ====
section
/-!
DEFINITION. The instructions: one constructor per row of spec/opcode_table.json (30_encoding.md R69, R71, R75).
-/

namespace Sys2Proof

/-- The sixteen transition codes (R96 to R111) and the eight operations (R69). Every operand is exactly as wide as its
field, so every term of this type is a well-formed instruction. -/
inductive Instr where
  | t00
  | t01
  | t02
  | t03
  | t04
  | t05
  | t06
  | t07
  | t08
  | t09
  | t10
  | t11
  | t12
  | t13
  | t14
  | t15
  | nop
  | edge (s : Sample)
  | getp
  | setp (v : Ticks)
  | applyCw
  | applyCcw
  | tick
  | reset
  deriving DecidableEq, Repr

/-- The mnemonic of an instruction's row in the opcode table. -/
def Instr.mnemonic : Instr → String
  | .t00 => "T00"
  | .t01 => "T01"
  | .t02 => "T02"
  | .t03 => "T03"
  | .t04 => "T04"
  | .t05 => "T05"
  | .t06 => "T06"
  | .t07 => "T07"
  | .t08 => "T08"
  | .t09 => "T09"
  | .t10 => "T10"
  | .t11 => "T11"
  | .t12 => "T12"
  | .t13 => "T13"
  | .t14 => "T14"
  | .t15 => "T15"
  | .nop => "NOP"
  | .edge _ => "EDGE"
  | .getp => "GETP"
  | .setp _ => "SETP"
  | .applyCw => "APPLY_CW"
  | .applyCcw => "APPLY_CCW"
  | .tick => "TICK"
  | .reset => "RESET"

/-- The index of a transition code; `none` for an operation (R71). -/
def Instr.transitionIndex : Instr → Option Index
  | .t00 => some 0
  | .t01 => some 1
  | .t02 => some 2
  | .t03 => some 3
  | .t04 => some 4
  | .t05 => some 5
  | .t06 => some 6
  | .t07 => some 7
  | .t08 => some 8
  | .t09 => some 9
  | .t10 => some 10
  | .t11 => some 11
  | .t12 => some 12
  | .t13 => some 13
  | .t14 => some 14
  | .t15 => some 15
  | .nop => none
  | .edge _ => none
  | .getp => none
  | .setp _ => none
  | .applyCw => none
  | .applyCcw => none
  | .tick => none
  | .reset => none

/-- Whether an instruction is performed by the encoder handler's decoder: `EDGE` or a transition code. -/
def Instr.isEdge : Instr → Bool
  | .edge _ => true
  | i => i.transitionIndex.isSome

end Sys2Proof
end

