-- ==== Sys2Proof/Decode.lean ====
section
/-!
DEFINITION. The decoder, total on every word, rejecting by name (30_encoding.md R69, R70, R71), and after it the
encoder, written from the same rules. The decoder reads the fields op and arg of R68; it does not read the mask and
match table of Sys2Proof/WellFormed.lean, so the two can be held against each other.
-/

namespace Sys2Proof

/-- Why a word spells no instruction (R70): the decoder's verdict "invalid", with its reason. -/
inductive Reject where
  /-- The op code is 0x7 to 0xE (R69). -/
  | reservedOp (op : BitVec 4)
  /-- A field that must be 0 holds a non-zero bit (R69). -/
  | nonzeroField (op : BitVec 4)
  /-- The bits fit neither format (log entry 22). -/
  | noFormat (nbits w : Nat)
  deriving DecidableEq, Repr

/-- The transition code of an index: all sixteen are defined (R71). -/
def decodeTi4 (ti : Index) : Instr :=
  match ti.toNat with
  | 0 => .t00
  | 1 => .t01
  | 2 => .t02
  | 3 => .t03
  | 4 => .t04
  | 5 => .t05
  | 6 => .t06
  | 7 => .t07
  | 8 => .t08
  | 9 => .t09
  | 10 => .t10
  | 11 => .t11
  | 12 => .t12
  | 13 => .t13
  | 14 => .t14
  | _ => .t15

/-- Field op of an event word, bits 35:32 (R68). -/
def opField (w : EventBits) : BitVec 4 := w.extractLsb' 32 4

/-- Field arg of an event word, bits 31:0 (R68). -/
def argField (w : EventBits) : BitVec 32 := w.extractLsb' 0 32

/-- Field s of an EDGE word, arg[1:0] (R69). -/
def sampleField (arg : BitVec 32) : Sample := arg.extractLsb' 0 2

/-- The bits arg[31:2], which an EDGE word must hold at 0 (R69). -/
def edgeZeroField (arg : BitVec 32) : BitVec 30 := arg.extractLsb' 2 30

/-- An operation whose arg must be 0 (R69). -/
def withoutArg (i : Instr) (op : BitVec 4) (arg : BitVec 32) : Except Reject Instr :=
  if arg = 0 then .ok i else .error (.nonzeroField op)

/-- The operation an event word spells, by the op codes of R69; op 0x7 to 0xE are reserved (R70). -/
def decodeEv36 (w : EventBits) : Except Reject Instr :=
  let op := opField w
  let arg := argField w
  match op.toNat with
  | 0x0 => withoutArg .nop op arg
  | 0x1 => if edgeZeroField arg = 0 then .ok (.edge (sampleField arg)) else .error (.nonzeroField op)
  | 0x2 => withoutArg .getp op arg
  | 0x3 => .ok (.setp arg)
  | 0x4 => withoutArg .applyCw op arg
  | 0x5 => withoutArg .applyCcw op arg
  | 0x6 => withoutArg .tick op arg
  | 0xF => withoutArg .reset op arg
  | _ => .error (.reservedOp op)

/-- The decoder (R75: it classifies any 4-bit index and any 36-bit word). -/
def decode : EventWord → Except Reject Instr
  | .ti4 ti => .ok (decodeTi4 ti)
  | .ev36 w => decodeEv36 w
  | .malformed nbits w => .error (.noFormat nbits w)

/-- An event word from its two fields (R68). -/
def eventBits (op : BitVec 4) (arg : BitVec 32) : EventBits := op ++ arg

/-- The word of an instruction (R69, R71). -/
def encode : Instr → EventWord
  | .t00 => .ti4 0x0
  | .t01 => .ti4 0x1
  | .t02 => .ti4 0x2
  | .t03 => .ti4 0x3
  | .t04 => .ti4 0x4
  | .t05 => .ti4 0x5
  | .t06 => .ti4 0x6
  | .t07 => .ti4 0x7
  | .t08 => .ti4 0x8
  | .t09 => .ti4 0x9
  | .t10 => .ti4 0xA
  | .t11 => .ti4 0xB
  | .t12 => .ti4 0xC
  | .t13 => .ti4 0xD
  | .t14 => .ti4 0xE
  | .t15 => .ti4 0xF
  | .nop => .ev36 (eventBits 0x0 0)
  | .edge s => .ev36 (eventBits 0x1 ((0 : BitVec 30) ++ s))
  | .getp => .ev36 (eventBits 0x2 0)
  | .setp v => .ev36 (eventBits 0x3 v)
  | .applyCw => .ev36 (eventBits 0x4 0)
  | .applyCcw => .ev36 (eventBits 0x5 0)
  | .tick => .ev36 (eventBits 0x6 0)
  | .reset => .ev36 (eventBits 0xF 0)

/-- The word a row of the opcode table spells, from its bits numbered as the table numbers them. The rows of at most
32 bits are those of format TI4 (4 bits); a wider row is of format EV36 (36 bits, 40 in whole bytes). Bits that do not
fit the format make a malformed word. -/
def tableWord (nbits w : Nat) : EventWord :=
  if nbits ≤ 32 then
    if w < 2 ^ 4 then .ti4 (BitVec.ofNat 4 w) else .malformed nbits w
  else
    if w < 2 ^ 36 then .ev36 (BitVec.ofNat 36 w) else .malformed nbits w

/-- The instruction the decoder reads from the bits of a row of the opcode table. -/
def decodeTableWord (nbits w : Nat) : Option Instr :=
  (decode (tableWord nbits w)).toOption

end Sys2Proof
end

