-- ==== Sys2Proof/Config.lean ====
section
/-!
DEFINITION. The parameters of 00_scope.md R6. The widths are fixed at their reference values; the others are a record
that the shared operations take, so that claims can quantify over every admitted configuration (R7, D15). The
reference values stand in Sys2Proof/Machine/Params.lean. The identity of R1 is a record of them and two names.
-/

namespace Sys2Proof

/-- The parameters of R6 that are not widths, and the one parameter U3 allows. -/
structure Config where
  /-- THRESHOLD: the detent threshold of the accumulator. -/
  threshold : Nat
  /-- FLOOR: the lower bound of PERIOD and the guard of the shrink operation (C4: one parameter). -/
  floor : Nat
  /-- CEILING: the upper bound of PERIOD and the guard of the grow operation. -/
  ceiling : Nat
  /-- DEFAULT: the value of PERIOD after RESET. -/
  defaultPeriod : Nat
  /-- RATE_DIV: the divisor of the "one tenth" adjustment. -/
  rateDiv : Nat
  /-- TICK_HZ: the rate of the external tick source; no rule depends on it. -/
  tickHz : Nat
  /-- PRIO: which context may preempt the other; no rule reads it (R208, U1). -/
  prio : Handler
  /-- SETP_REJECTS of 93_implementation_defined.md U3: an out-of-range SETP leaves PERIOD unchanged instead of
  clamping. False in this spec (R154, D13). -/
  setpRejects : Bool
  deriving DecidableEq, Repr

/-- The identity a model of this block carries (R1). -/
structure Identity where
  /-- The name of the block. -/
  block : String
  /-- The repository whose core the block is. -/
  repository : String
  /-- The parameter values. -/
  parameters : Config
  deriving DecidableEq, Repr

namespace Config

/-- HIST_W (R6). -/
def histW : Nat := 2

/-- SAMPLE_W (R6). -/
def sampleW : Nat := 2

/-- TI_W (R6). -/
def tiW : Nat := 4

/-- TABLE_N (R6). -/
def tableN : Nat := 16

/-- PERIOD_W (R6). -/
def periodW : Nat := 32

/-- ACC_W (R6, R22). DESIGN CHOICE of the spec (D6): the minimum, 4. -/
def accW : Nat := 4

/-- The value PRIO takes on a given system is open (R208): an uninterpreted constant that no rule reads.
DESIGN CHOICE, log entry 14. -/
opaque openPriority : Handler

end Config
end Sys2Proof
end

