-- ==== Sys2Proof/WellFormed.lean ====
section
/-!
DEFINITION. The checks. An admitted configuration (00_scope.md R7); the rows of spec/opcode_table.json and the words
they classify (30_encoding.md R70, R75). A term of Instr needs no check: its operands have the width of their fields.
The check of a script (R73) stands with the scripts, in Sys2Proof/Machine/Script.lean.
-/

namespace Sys2Proof

/-- R7: a Config is admitted only if (a) to (d) hold. -/
def Config.admitted (c : Config) : Bool :=
  decide (1 ≤ c.threshold) && decide (c.threshold ≤ 2 ^ (Config.accW - 1) - 1) &&
  decide (c.rateDiv = 10) &&
  (decide (c.rateDiv ≤ c.floor) && decide (c.floor ≤ c.defaultPeriod) && decide (c.defaultPeriod ≤ c.ceiling)) &&
  decide (c.ceiling + c.ceiling / c.rateDiv ≤ 2 ^ Config.periodW - 1)

/-- The two formats of the opcode table. -/
inductive Format where
  | ti4
  | ev36
  deriving DecidableEq, Repr

/-- One row of the opcode table: a word `w` of the row's format is the row's when `w &&& mask = pattern` (R75). -/
structure OpRow where
  mnemonic : String
  format   : Format
  pattern  : Nat
  mask     : Nat
  deriving DecidableEq, Repr

/-- The sixteen rows of format TI4. -/
def transitionRows : List OpRow :=
  [⟨"T00", .ti4, 0x0, 0xF⟩, ⟨"T01", .ti4, 0x1, 0xF⟩, ⟨"T02", .ti4, 0x2, 0xF⟩, ⟨"T03", .ti4, 0x3, 0xF⟩] ++
  [⟨"T04", .ti4, 0x4, 0xF⟩, ⟨"T05", .ti4, 0x5, 0xF⟩, ⟨"T06", .ti4, 0x6, 0xF⟩, ⟨"T07", .ti4, 0x7, 0xF⟩] ++
  [⟨"T08", .ti4, 0x8, 0xF⟩, ⟨"T09", .ti4, 0x9, 0xF⟩, ⟨"T10", .ti4, 0xA, 0xF⟩, ⟨"T11", .ti4, 0xB, 0xF⟩] ++
  [⟨"T12", .ti4, 0xC, 0xF⟩, ⟨"T13", .ti4, 0xD, 0xF⟩, ⟨"T14", .ti4, 0xE, 0xF⟩, ⟨"T15", .ti4, 0xF, 0xF⟩]

/-- The eight rows of format EV36. -/
def operationRows : List OpRow :=
  [⟨"NOP", .ev36, 0x000000000, 0xFFFFFFFFF⟩, ⟨"EDGE", .ev36, 0x100000000, 0xFFFFFFFFC⟩,
   ⟨"GETP", .ev36, 0x200000000, 0xFFFFFFFFF⟩, ⟨"SETP", .ev36, 0x300000000, 0xF00000000⟩] ++
  [⟨"APPLY_CW", .ev36, 0x400000000, 0xFFFFFFFFF⟩, ⟨"APPLY_CCW", .ev36, 0x500000000, 0xFFFFFFFFF⟩,
   ⟨"TICK", .ev36, 0x600000000, 0xFFFFFFFFF⟩, ⟨"RESET", .ev36, 0xF00000000, 0xFFFFFFFFF⟩]

/-- spec/opcode_table.json, its 24 rows. -/
def opcodeTable : List OpRow := transitionRows ++ operationRows

/-- Whether a word is one of a row's words. -/
def OpRow.covers (r : OpRow) : EventWord → Bool
  | .ti4 ti => r.format == .ti4 && ti.toNat &&& r.mask == r.pattern
  | .ev36 w => r.format == .ev36 && w.toNat &&& r.mask == r.pattern
  | .malformed _ _ => false

/-- A word spells an instruction when some row of the opcode table covers it; a word that none covers is refused
(R70, R75). -/
def EventWord.wf (w : EventWord) : Bool :=
  opcodeTable.any fun r => r.covers w

end Sys2Proof
end

