-- ==== Sys2Proof/Machine/Params.lean ====
section
/-!
DEFINITION. The reference values of the parameters (00_scope.md R6): "the value this hardware takes"; and the identity
that this model carries (R1).
-/

namespace Sys2Proof.Machine

/-- The reference configuration (R6). Its literals are the source's, which the spec calls unaudited. -/
def reference : Config where
  threshold := 4
  floor := 10
  ceiling := 3000
  defaultPeriod := 1000
  rateDiv := 10
  tickHz := 100
  prio := Config.openPriority
  setpRejects := false

/-- The identity (R1): the block's name, the repository's name, and the reference parameter values. -/
def identity : Identity where
  block := "quadrature_decoder_lut"
  repository := "kulbitsky99/STM32"
  parameters := reference

end Sys2Proof.Machine
end

