-- ==== Sys2Proof/Machine/State.lean ====
section
/-!
DEFINITION. The state: the block's three registers, the external state in a record of its own (10_state.md R20), and
what the model holds of a run: whether a RESET has completed, what is delivered next, and what was returned.
-/

namespace Sys2Proof.Machine

/-- The complete architectural state of the block (R20). -/
structure Block where
  /-- HIST, the sample of the previous EDGE: bit 0 line A, bit 1 line B (R21). -/
  hist : Sample
  /-- ACC, the sum of steps since the last detent or RESET, two's complement (R22). -/
  acc : Acc
  /-- PERIOD, ticks between blink toggles (R24). -/
  period : Ticks
  deriving DecidableEq, Repr

/-- The external state: the edge source of R29 and R181, the blinker of R30 and R183. -/
structure Env where
  /-- LA, the level of line A. -/
  lineA : Bool
  /-- LB, the level of line B. -/
  lineB : Bool
  /-- PEND_A, the pending-edge indication of line A. -/
  pendA : Bool
  /-- PEND_B, the pending-edge indication of line B. -/
  pendB : Bool
  /-- TICKCNT, the blinker's counter. -/
  tickCnt : BitVec 32
  /-- OUT, the blinker's output. -/
  out : Bool
  deriving DecidableEq, Repr

/-- One thing that is delivered to the machine: a move of one of the agents of R11. DESIGN CHOICE, log entry 1. -/
inductive Input where
  /-- A word, to be decoded and performed. -/
  | word (w : EventWord)
  /-- The environment's move `LINE(a, b)` (R181). -/
  | line (a b : Bool)
  /-- The scheduler lets the encoder handler run: an EDGE if an indication is pending (R181, R203). -/
  | handler
  /-- The environment's own initialisation, with the lines at any levels (R231, R232; log entry 4). DESIGN CHOICE, log
  entry 23: it may be delivered at any time, with or without a RESET beside it. -/
  | envReset (a b : Bool)
  deriving DecidableEq, Repr

/-- What an operation returned or read: the event history that R28 allows. -/
inductive Report where
  /-- The detent result of an EDGE, `none` for "emits nothing" (R28, R131). -/
  | detent (d : Option Detent)
  /-- The result of a GETP (R155). -/
  | period (p : Ticks)
  /-- The value of PERIOD a TICK read (R183). -/
  | tickRead (p : Ticks)
  deriving DecidableEq, Repr

/-- The state. `history` is newest first, `input` next first. -/
structure State where
  block   : Block
  env     : Env
  /-- A RESET has completed at some time (R233). -/
  booted  : Bool
  input   : List Input
  history : List Report
  deriving DecidableEq, Repr

/-- Why the machine stops. No admitted operation from a reachable state raises one (R200). -/
inductive Fault where
  /-- TICK with PERIOD = 0: the modulo is undefined (U4, R183). Raised by `TICK`. Safe: the machine stops. -/
  | zeroPeriod
  /-- ACC outside the range of R23(a): no rule says what an EDGE does there (U8: "stuck"). Raised by `EDGE` and
  the transition codes. Safe: the machine stops. -/
  | accOutOfRange
  /-- PERIOD outside FLOOR..CEILING: no rule says what a read of it does there (U8: "stuck"). Raised by `APPLY_CW`,
  `APPLY_CCW`, `GETP`, `TICK`, and by an EDGE or transition code that emits a detent. Safe: the machine stops. -/
  | periodOutOfRange
  deriving DecidableEq, Repr

/-- Why the machine has no meaning for what it is given. -/
inductive Refusal where
  /-- An instruction that has no meaning in this model yet; raised by `exec` alone. No arm raises it. Safe. -/
  | notModelled (mnemonic : String)
  /-- The word spells no operation (R70, U14). Raised by `step`. Safe. -/
  | illegalWord (r : Reject)
  /-- A word other than RESET, or the encoder handler, before the first RESET (R233, R187). Raised by `step`. Safe. -/
  | beforeReset
  /-- A transition code whose previous sample is not HIST: that index cannot be formed (R63). Raised by `step`. Safe.
  DESIGN CHOICE, log entry 2. -/
  | indexNotFormed
  /-- The configuration is not admitted (R7). Raised by `execWith` and `stepWith`, whatever is
  delivered. Safe. -/
  | configNotAdmitted
  deriving DecidableEq, Repr

/-- What one step can answer. -/
abbrev Result := Host.Outcome State Fault Refusal

/-- The launch premise of R231 with the lines at given levels: the block at (0, 0, DEFAULT), no indication pending, the
blinker at 0 (R35), nothing delivered yet. -/
def State.resetAt (a b : Bool) : State where
  block := { hist := 0, acc := 0, period := BitVec.ofNat 32 reference.defaultPeriod }
  env := { lineA := a, lineB := b, pendA := false, pendB := false, tickCnt := 0, out := false }
  booted := true
  input := []
  history := []

/-- The machine right after reset (R35, R230, R231). The line levels are DESIGN CHOICE (log entry 3): both 0; the spec
leaves them free, and `State.resetAt` takes any. -/
def State.reset : State := State.resetAt false false

end Sys2Proof.Machine
end

