-- ==== Sys2Proof/Machine/Operands.lean ====
section
/-!
DEFINITION. The operand forms: the sample, the assembly of the index and its fields (30_encoding.md R61, R63), a step
in bits and its sign extension (R64, R122), and the ranges the invariants give ACC and PERIOD (10_state.md R23, R25).
-/

namespace Sys2Proof.Machine

/-- A sample from the two levels, s = A + 2*B (R61). -/
def sampleOf (a b : Bool) : Sample := BitVec.ofBool b ++ BitVec.ofBool a

/-- `LineRead()`: both lines sampled together, as they stand now (R90, R181). No side effect (R50). -/
def lineRead (s : State) : Sample := sampleOf s.env.lineA s.env.lineB

/-- The TransitionIndex `(HIST << 2) | s` (R63, R91). -/
def index (hist smp : Sample) : Index := hist ++ smp

/-- The fields pB, pA of an index: the previous sample (R63). -/
def previousSample (ti : Index) : Sample := ti.extractLsb' 2 2

/-- The fields cB, cA of an index: the current sample (R63). -/
def currentSample (ti : Index) : Sample := ti.extractLsb' 0 2

/-- A step in format ST2 (R64). -/
def st2 (step : Int) : StepBits := BitVec.ofInt 2 step

/-- A step sign-extended to ACC_W bits (R64, R122). -/
def sextStep (b : StepBits) : Acc := b.signExtend 4

/-- ACC is inside the range of R23(a): -(THRESHOLD-1) ≤ ACC ≤ THRESHOLD-1. -/
def accLegal (c : Config) (a : Acc) : Bool :=
  decide (-(c.threshold : Int) < a.toInt) && decide (a.toInt < c.threshold)

/-- PERIOD is inside the range of R25: FLOOR ≤ PERIOD ≤ CEILING. -/
def periodLegal (c : Config) (p : Ticks) : Bool :=
  decide (c.floor ≤ p.toNat) && decide (p.toNat ≤ c.ceiling)

end Sys2Proof.Machine
end

