-- ==== Sys2Proof/Machine/Flags.lean ====
section
/-!
DEFINITION. The only flag-like value of the block, the detent result of an EDGE (10_state.md R28): the micro-step
DETECT (42_detent_event_generator.md R130) and the encoding of its result (30_encoding.md R66).
-/

namespace Sys2Proof.Machine

/-- `DETECT` (R130): the value stored into ACC and the detent result, from the unstored sum. The test is equality; a
detent stores the constant 0 (R135). -/
def detect (c : Config) (a : Int) : Int × Option Detent :=
  if a = (c.threshold : Int) then (0, some .cw)
  else if a = -(c.threshold : Int) then (0, some .ccw)
  else (a, none)

/-- The detent result in format DT2 (R66). -/
def dt2 : Option Detent → DetentBits
  | none => 0b00
  | some .cw => 0b01
  | some .ccw => 0b11

end Sys2Proof.Machine
end

