-- ==== Sys2Proof/Machine/Ops.lean ====
section
/-!
DEFINITION. The named operations over the ROM, the registers and the external state. Every register is read and
written whole (20_memory.md R46); all writes of one operation take effect together (00_scope.md R10), since an
operation answers one next state. There is no exception to take and none to return from (60_exceptions.md R200,
R210, R211): entry saves nothing and return restores nothing.
-/

namespace Sys2Proof.Machine

/-- The StepTable, normative (R94). -/
def stepTable : Vector Int 16 :=
  #v[ 0, -1,  1,  0,
      1,  0,  0, -1,
     -1,  0,  0,  1,
      0,  1, -1,  0]

/-- `MemRead(ti, 1)`: one entry of the StepTable (R41). -/
def memRead (ti : Index) : Int := stepTable.get ti.toFin

/-- The table as one 32-bit constant, entry i in bits 2i+1:2i in format ST2 (R65). -/
def lut32 : BitVec 32 := 0x3443C11C

/-- The entries that are +1, one bit each (R65). -/
def inc16 : BitVec 16 := 0x2814

/-- The entries that are -1, one bit each (R65). -/
def dec16 : BitVec 16 := 0x4182

/-- Run the second operation on the state the first leaves, unless it stops. -/
def andThen (r : Result) (f : State → Result) : Result :=
  match r with
  | .next s => f s
  | .fault e => .fault e
  | .refused e => .refused e

/-- `x[HIST] <- v`. -/
def State.setHist (s : State) (v : Sample) : State := { s with block := { s.block with hist := v } }

/-- `x[ACC] <- v`, a mathematical integer stored in ACC_W bits; R121 says it fits. -/
def State.setAcc (s : State) (v : Int) : State := { s with block := { s.block with acc := BitVec.ofInt 4 v } }

/-- `x[PERIOD] <- v`, stored whole in 32 bits; R156 says it fits. -/
def State.setPeriod (s : State) (v : Nat) : State := { s with block := { s.block with period := BitVec.ofNat 32 v } }

/-- Record what an operation returned or read (R28). -/
def State.report (s : State) (r : Report) : State := { s with history := r :: s.history }

/-- `AckEdges()`: clears the pending indication of both lines, nothing else (R132). -/
def ackEdges (s : State) : State := { s with env := { s.env with pendA := false, pendB := false } }

/-- The environment's move `LINE(a, b)` (R181): a line that changes sets its indication. -/
def lineMove (a b : Bool) (s : State) : State :=
  { s with env := { s.env with
      lineA := a, lineB := b,
      pendA := s.env.pendA || a != s.env.lineA,
      pendB := s.env.pendB || b != s.env.lineB } }

/-- An indication is pending: the encoder handler's EDGE is enabled (R181, R204). -/
def edgePending (s : State) : Bool := s.env.pendA || s.env.pendB

/-- The environment's own initialisation (R231, R232, R35), the lines at any levels. DEDUCED, log entry 4; when it may
happen is DESIGN CHOICE, log entry 23. -/
def envReset (a b : Bool) (s : State) : State :=
  { s with env := { lineA := a, lineB := b, pendA := false, pendB := false, tickCnt := 0, out := false } }

/-- `CLAMP(v)` (R150). -/
def clamp (c : Config) (v : Nat) : Nat := min (max v c.floor) c.ceiling

/-- The value `APPLY_CW` leaves in PERIOD (R151). -/
def shrunkPeriod (c : Config) (p : Nat) : Nat :=
  if c.floor < p then clamp c (p - p / c.rateDiv) else p

/-- The value `APPLY_CCW` leaves in PERIOD (R152). The clamp is the spec's resolution of C1; log entry 10. -/
def grownPeriod (c : Config) (p : Nat) : Nat :=
  if p < c.ceiling then clamp c (p + p / c.rateDiv) else p

/-- The value a detent leaves in PERIOD: the dispatch of R153. -/
def adjustedPeriod (c : Config) : Detent → Nat → Nat
  | .cw => shrunkPeriod c
  | .ccw => grownPeriod c

/-- `APPLY(d)`, one atomic read-modify-write of PERIOD (R49, R153). -/
def applyDetent (c : Config) (d : Detent) (s : State) : Result :=
  if periodLegal c s.block.period then .next (s.setPeriod (adjustedPeriod c d s.block.period.toNat))
  else .fault .periodOutOfRange

/-- Delivery of the detent result inside the same EDGE (R136); for `None` the controller is not invoked (R153). -/
def deliverDetent (c : Config) : Option Detent → State → Result
  | none, s => .next s
  | some d, s => applyDetent c d s

/-- One EDGE with its index given (R131): HISTUPD, LOOKUP, ACCUM, DETECT with the delivery of the detent, ACK, and the
result returned. The current sample is `ti[1:0]` (R92). -/
def transition (c : Config) (ti : Index) (s : State) : Result :=
  if accLegal c s.block.acc then
    let a := s.block.acc.toInt + memRead ti
    let stored := (detect c a).1
    let d := (detect c a).2
    andThen (deliverDetent c d ((s.setHist (currentSample ti)).setAcc stored)) fun t =>
      .next ((ackEdges t).report (.detent d))
  else .fault .accOutOfRange

/-- `EDGE` with sample `smp` (R131): INDEX with HIST as it was before, then the transition of that index. -/
def edge (c : Config) (smp : Sample) (s : State) : Result :=
  transition c (index s.block.hist smp) s

/-- `GETP` (R155): PERIOD is returned whole; no register changes. -/
def getPeriod (c : Config) (s : State) : Result :=
  if periodLegal c s.block.period then .next (s.report (.period s.block.period))
  else .fault .periodOutOfRange

/-- The value `SETP v` leaves in PERIOD: CLAMP(v) (R154), or, where SETP_REJECTS, the old value for an operand outside
the bounds (U3; log entry 9). -/
def setPeriodValue (c : Config) (v old : Nat) : Nat :=
  if c.setpRejects && !(decide (c.floor ≤ v) && decide (v ≤ c.ceiling)) then old else clamp c v

/-- `SETP v` (R154), from any state. -/
def setPeriodTo (c : Config) (v : Ticks) (s : State) : Result :=
  .next (s.setPeriod (setPeriodValue c v.toNat s.block.period.toNat))

/-- The blinker's counter after a tick: (TICKCNT + 1) mod p over the integers (R9, R183). -/
def nextCount (tickCnt p : Nat) : Nat := (tickCnt + 1) % p

/-- `TICK` (R183): the read of PERIOD is taken at this instant, every tick (R184). -/
def blink (c : Config) (s : State) : Result :=
  if s.block.period = 0 then .fault .zeroPeriod
  else if periodLegal c s.block.period then
    let n := nextCount s.env.tickCnt.toNat s.block.period.toNat
    .next ({ s with env := { s.env with
      tickCnt := BitVec.ofNat 32 n,
      out := if n = 0 then !s.env.out else s.env.out } }.report (.tickRead s.block.period))
  else .fault .periodOutOfRange

/-- `RESET` (R230). It reads no line, loads no table and does not acknowledge (R232). -/
def initBlock (c : Config) (s : State) : Result :=
  .next { s with
    block := { hist := 0, acc := 0, period := BitVec.ofNat 32 c.defaultPeriod },
    booted := true }

end Sys2Proof.Machine
end

