-- ==== Sys2Proof/Machine/Decoder.lean ====
section
/-!
DEFINITION. The quadrature decoder: the sixteen transition codes (40_quadrature_decoder_lut.md R96 to R111) and EDGE
(42_detent_event_generator.md R131).

A transition code is an EDGE whose index is given by the instruction. Its meaning does not look at HIST: `step` presents
a code only where HIST holds the code's previous sample (Sys2Proof/Machine/Fetch.lean; DESIGN CHOICE, log entry 2).
-/

namespace Sys2Proof.Machine

/-- `T00` (R96): previous B=0, A=0, current B=0, A=0; hold; step 0. -/
def execT00 (s : State) : Result := transition reference 0 s

/-- `T01` (R97): previous B=0, A=0, current B=0, A=1; valid, negative; step -1. -/
def execT01 (s : State) : Result := transition reference 1 s

/-- `T02` (R98): previous B=0, A=0, current B=1, A=0; valid, positive; step +1. -/
def execT02 (s : State) : Result := transition reference 2 s

/-- `T03` (R99): previous B=0, A=0, current B=1, A=1; double; step 0. -/
def execT03 (s : State) : Result := transition reference 3 s

/-- `T04` (R100): previous B=0, A=1, current B=0, A=0; valid, positive; step +1. -/
def execT04 (s : State) : Result := transition reference 4 s

/-- `T05` (R101): previous B=0, A=1, current B=0, A=1; hold; step 0. -/
def execT05 (s : State) : Result := transition reference 5 s

/-- `T06` (R102): previous B=0, A=1, current B=1, A=0; double; step 0. -/
def execT06 (s : State) : Result := transition reference 6 s

/-- `T07` (R103): previous B=0, A=1, current B=1, A=1; valid, negative; step -1. -/
def execT07 (s : State) : Result := transition reference 7 s

/-- `T08` (R104): previous B=1, A=0, current B=0, A=0; valid, negative; step -1. -/
def execT08 (s : State) : Result := transition reference 8 s

/-- `T09` (R105): previous B=1, A=0, current B=0, A=1; double; step 0. -/
def execT09 (s : State) : Result := transition reference 9 s

/-- `T10` (R106): previous B=1, A=0, current B=1, A=0; hold; step 0. -/
def execT10 (s : State) : Result := transition reference 10 s

/-- `T11` (R107): previous B=1, A=0, current B=1, A=1; valid, positive; step +1. -/
def execT11 (s : State) : Result := transition reference 11 s

/-- `T12` (R108): previous B=1, A=1, current B=0, A=0; double; step 0. -/
def execT12 (s : State) : Result := transition reference 12 s

/-- `T13` (R109): previous B=1, A=1, current B=0, A=1; valid, positive; step +1. -/
def execT13 (s : State) : Result := transition reference 13 s

/-- `T14` (R110): previous B=1, A=1, current B=1, A=0; valid, negative; step -1. -/
def execT14 (s : State) : Result := transition reference 14 s

/-- `T15` (R111): previous B=1, A=1, current B=1, A=1; hold; step 0. -/
def execT15 (s : State) : Result := transition reference 15 s

/-- `EDGE s` (R131). -/
def execEdge (smp : Sample) (s : State) : Result := edge reference smp s

end Sys2Proof.Machine
end

