-- ==== Sys2Proof/Machine/Environment.lean ====
section
/-!
DEFINITION. The external operations (44_external_interfaces.md R183, R185) and RESET (70_reset_and_hazards.md R230).
-/

namespace Sys2Proof.Machine

/-- `TICK` (R183). -/
def execTick (s : State) : Result := blink reference s

/-- `NOP` (R185). -/
def execNop (s : State) : Result := .next s

/-- `RESET` (R230). -/
def execReset (s : State) : Result := initBlock reference s

end Sys2Proof.Machine
end

