-- ==== Sys2Proof/Machine/Rate.lean ====
section
/-!
DEFINITION. The adaptive rate controller and the shared rate accessor (43_adaptive_rate_controller.md R151 to R155).
-/

namespace Sys2Proof.Machine

/-- `APPLY_CW` (R151). -/
def execApplyCw (s : State) : Result := applyDetent reference .cw s

/-- `APPLY_CCW` (R152). -/
def execApplyCcw (s : State) : Result := applyDetent reference .ccw s

/-- `SETP v` (R154). -/
def execSetp (v : Ticks) (s : State) : Result := setPeriodTo reference v s

/-- `GETP` (R155). -/
def execGetp (s : State) : Result := getPeriod reference s

end Sys2Proof.Machine
end

