-- ==== Sys2Proof/Machine/Dispatch.lean ====
section
/-!
DEFINITION. The dispatch: one arm per instruction, each one direct call of its meaning.
-/

namespace Sys2Proof.Machine

/-- What an instruction does to a state. -/
def exec (i : Instr) (s : State) : Host.Outcome State Fault Refusal :=
  match i with
  | .t00 => Sys2Proof.Machine.execT00 s
  | .t01 => Sys2Proof.Machine.execT01 s
  | .t02 => Sys2Proof.Machine.execT02 s
  | .t03 => Sys2Proof.Machine.execT03 s
  | .t04 => Sys2Proof.Machine.execT04 s
  | .t05 => Sys2Proof.Machine.execT05 s
  | .t06 => Sys2Proof.Machine.execT06 s
  | .t07 => Sys2Proof.Machine.execT07 s
  | .t08 => Sys2Proof.Machine.execT08 s
  | .t09 => Sys2Proof.Machine.execT09 s
  | .t10 => Sys2Proof.Machine.execT10 s
  | .t11 => Sys2Proof.Machine.execT11 s
  | .t12 => Sys2Proof.Machine.execT12 s
  | .t13 => Sys2Proof.Machine.execT13 s
  | .t14 => Sys2Proof.Machine.execT14 s
  | .t15 => Sys2Proof.Machine.execT15 s
  | .nop => Sys2Proof.Machine.execNop s
  | .edge smp => Sys2Proof.Machine.execEdge smp s
  | .getp => Sys2Proof.Machine.execGetp s
  | .setp v => Sys2Proof.Machine.execSetp v s
  | .applyCw => Sys2Proof.Machine.execApplyCw s
  | .applyCcw => Sys2Proof.Machine.execApplyCcw s
  | .tick => Sys2Proof.Machine.execTick s
  | .reset => Sys2Proof.Machine.execReset s

end Sys2Proof.Machine
end

