-- ==== Sys2Proof/Machine/Fetch.lean ====
section
/-!
DEFINITION. What is performed next. The block fetches no instructions (10_state.md R31); what it does next is decided
only by which event arrives. The events stand in `State.input` (DESIGN CHOICE, log entry 1).
-/

namespace Sys2Proof.Machine

/-- What the next delivery asks for. -/
inductive Fetched where
  /-- Perform this instruction on this state. -/
  | run (i : Instr) (s : State)
  /-- The delivery is a move of the environment that ends in this state, or nothing was delivered. -/
  | move (s : State)
  /-- The delivery is refused. -/
  | refuse (r : Refusal)
  deriving DecidableEq, Repr

/-- Whether the state can form a word's index: a transition code needs HIST at its previous sample (R63); an event word
carries no index. DESIGN CHOICE, log entry 2. -/
def indexFormed (w : EventWord) (s : State) : Bool :=
  match w with
  | .ti4 ti => decide (s.block.hist = previousSample ti)
  | .ev36 _ => true
  | .malformed _ _ => true

/-- The delivery of a word, `s` being the state with the word taken. A word that spells no operation is refused (R70); a
word other than RESET is refused before the first RESET (R233). -/
def acceptWord (w : EventWord) (s : State) : Fetched :=
  match decode w with
  | .error r => .refuse (.illegalWord r)
  | .ok i =>
    if !s.booted && decide (i ≠ .reset) then .refuse .beforeReset
    else if indexFormed w s then .run i s
    else .refuse .indexNotFormed

/-- The encoder handler is let run: the EDGE is enabled exactly when an indication is pending, and samples the lines as
they stand (R181). With none pending nothing runs (log entry 17); before the first RESET it must not run (R187). -/
def acceptHandler (s : State) : Fetched :=
  if !s.booted then .refuse .beforeReset
  else if edgePending s then .run (.edge (lineRead s)) s
  else .move s

/-- Take the next delivery. With nothing delivered the machine waits, unchanged (R231, R252; log entry 16). The
environment's own initialisation is taken whenever it is delivered, before a RESET, after one or in mid-run: DESIGN CHOICE,
log entry 23. -/
def fetch (s : State) : Fetched :=
  match s.input with
  | [] => .move s
  | .word w :: rest => acceptWord w { s with input := rest }
  | .line a b :: rest => .move (lineMove a b { s with input := rest })
  | .handler :: rest => acceptHandler { s with input := rest }
  | .envReset a b :: rest => .move (envReset a b { s with input := rest })

/-- Deliver a word next, making the state one in which it runs: a RESET has completed, and a transition code finds its
previous sample in HIST. -/
def deliverNext (w : EventWord) (s : State) : State :=
  match w with
  | .ti4 ti => { s.setHist (previousSample ti) with booted := true, input := .word w :: s.input }
  | .ev36 _ => { s with booted := true, input := .word w :: s.input }
  | .malformed _ _ => { s with booted := true, input := .word w :: s.input }

end Sys2Proof.Machine
end

