-- ==== Sys2Proof/Machine/Parametric.lean ====
section
/-!
DEFINITION. The machine at any configuration (00_scope.md R6: "or take the record Config as an argument subject to rule
R7"). `exec` is this at the reference configuration; claims over `execWith` quantify over every admitted one (D15).
-/

namespace Sys2Proof.Machine

/-- What an instruction does at configuration `c`; a configuration that R7 does not admit is refused. -/
def execWith (c : Config) (i : Instr) (s : State) : Result :=
  if c.admitted then
    match i with
    | .t00 => transition c 0 s
    | .t01 => transition c 1 s
    | .t02 => transition c 2 s
    | .t03 => transition c 3 s
    | .t04 => transition c 4 s
    | .t05 => transition c 5 s
    | .t06 => transition c 6 s
    | .t07 => transition c 7 s
    | .t08 => transition c 8 s
    | .t09 => transition c 9 s
    | .t10 => transition c 10 s
    | .t11 => transition c 11 s
    | .t12 => transition c 12 s
    | .t13 => transition c 13 s
    | .t14 => transition c 14 s
    | .t15 => transition c 15 s
    | .nop => .next s
    | .edge smp => edge c smp s
    | .getp => getPeriod c s
    | .setp v => setPeriodTo c v s
    | .applyCw => applyDetent c .cw s
    | .applyCcw => applyDetent c .ccw s
    | .tick => blink c s
    | .reset => initBlock c s
  else .refused .configNotAdmitted

end Sys2Proof.Machine
end

