-- ==== Sys2Proof/Machine/Step.lean ====
section
/-!
DEFINITION. One step: take the next delivery and perform it. One step is one whole operation (00_scope.md R12).
-/

namespace Sys2Proof.Machine

/-- One step of the machine. -/
def step (s : State) : Host.Outcome State Fault Refusal :=
  match fetch s with
  | .run i t => exec i t
  | .move t => .next t
  | .refuse r => .refused r

/-- One step of the machine at configuration `c`. A configuration that R7 does not admit is refused before anything is
taken: instructions, moves of the environment and waiting alike. -/
def stepWith (c : Config) (s : State) : Host.Outcome State Fault Refusal :=
  if c.admitted then
    match fetch s with
    | .run i t => execWith c i t
    | .move t => .next t
    | .refuse r => .refused r
  else .refused .configNotAdmitted

/-- The state with the instruction of these bits delivered next, so that the very next step runs it. The block fetches
nothing from a memory: a word is delivered from outside (log entry 15). -/
def State.withFetchWord (s : State) (nbits w : Nat) : State :=
  deliverNext (tableWord nbits w) s

end Sys2Proof.Machine
end

