-- ==== Sys2Proof/Machine/Script.lean ====
section
/-!
DEFINITION. Event scripts, the spec's assembler (30_encoding.md R72, R73): the lines of a script as a term, its check,
its expansion to events, and its assembly to words. The spec's own notation (D11); nothing in `step` reads it.
-/

namespace Sys2Proof.Machine

/-- A script: its lines in order. A string `ab` of SEQ_AB or `ba` of SEQ_BA is a pair of digits, first digit first. -/
inductive Script where
  | done
  | event (i : Instr) (rest : Script)
  | cyclePlus (rest : Script)
  | cycleMinus (rest : Script)
  | rep (n : Nat) (body rest : Script)
  | seqAB (digits : List (Bool × Bool)) (rest : Script)
  | seqBA (digits : List (Bool × Bool)) (rest : Script)
  deriving DecidableEq, Repr

/-- The sample of a string of SEQ_AB: the first digit is line A (R73, C2). -/
def sampleAB (d : Bool × Bool) : Sample := sampleOf d.1 d.2

/-- The sample of a string of SEQ_BA: the first digit is line B (R73). -/
def sampleBA (d : Bool × Bool) : Sample := sampleOf d.2 d.1

/-- `CYCLE+` (R73). -/
def cyclePlusEvents : List Instr := [.edge 2, .edge 3, .edge 1, .edge 0]

/-- `CYCLE-` (R73). -/
def cycleMinusEvents : List Instr := [.edge 1, .edge 3, .edge 2, .edge 0]

/-- `n` copies of a list. -/
def copies (n : Nat) (l : List Instr) : List Instr :=
  match n with
  | 0 => []
  | n + 1 => l ++ copies n l

/-- The events of a script (R73); a sequence's first string is the starting history and no event. -/
def expand : Script → List Instr
  | .done => []
  | .event i rest => i :: expand rest
  | .cyclePlus rest => cyclePlusEvents ++ expand rest
  | .cycleMinus rest => cycleMinusEvents ++ expand rest
  | .rep n body rest => copies n (expand body) ++ expand rest
  | .seqAB ds rest => (ds.tail.map fun d => .edge (sampleAB d)) ++ expand rest
  | .seqBA ds rest => (ds.tail.map fun d => .edge (sampleBA d)) ++ expand rest

/-- HIST after an event, from HIST before it: an EDGE leaves its sample (R21), RESET leaves 0 (R230). -/
def histAfter (h : Sample) (i : Instr) : Sample :=
  match i with
  | .edge s => s
  | .reset => 0
  | i => (i.transitionIndex.map currentSample).getD h

/-- HIST after a list of events. -/
def histAfterAll (h : Sample) (l : List Instr) : Sample := l.foldl histAfter h

/-- The check of a sequence: it has a first string, and HIST stands at it (R73). -/
def seqStartsAt (h : Sample) (samples : List Sample) : Bool :=
  match samples with
  | [] => false
  | s :: _ => s == h

/-- The check of `n` copies of a body, from history `h`. -/
def copiesWf (check : Sample → Bool) (after : Sample → Sample) : Nat → Sample → Bool
  | 0, _ => true
  | n + 1, h => check h && copiesWf check after n (after h)

/-- The check of a script run from history `h`: an event line is one of the eight operations, never a transition code
(R72), and a sequence starts where HIST stands (R73). -/
def Script.wf (h : Sample) : Script → Bool
  | .done => true
  | .event i rest => i.transitionIndex.isNone && Script.wf (histAfter h i) rest
  | .cyclePlus rest => Script.wf (histAfterAll h cyclePlusEvents) rest
  | .cycleMinus rest => Script.wf (histAfterAll h cycleMinusEvents) rest
  | .rep n body rest =>
    copiesWf (fun k => Script.wf k body) (fun k => histAfterAll k (expand body)) n h &&
    Script.wf (histAfterAll h (copies n (expand body))) rest
  | .seqAB ds rest =>
    seqStartsAt h (ds.map sampleAB) && Script.wf (histAfterAll h (expand (.seqAB ds .done))) rest
  | .seqBA ds rest =>
    seqStartsAt h (ds.map sampleBA) && Script.wf (histAfterAll h (expand (.seqBA ds .done))) rest

/-- The words of a script: each event line assembles to exactly one word (R72). -/
def assemble (sc : Script) : List EventWord := (expand sc).map encode

/-- The spelling of an event line (R72); a transition code has none. -/
def eventLine : Instr → Option String
  | .nop => some "NOP"
  | .edge s => some ("EDGE " ++ toString s.toNat)
  | .getp => some "GETP"
  | .setp v => some ("SETP " ++ toString v.toNat)
  | .applyCw => some "APPLY CW"
  | .applyCcw => some "APPLY CCW"
  | .tick => some "TICK"
  | .reset => some "RESET"
  | _ => none

/-- The state with a script's words delivered next, in order. -/
def State.loadScript (s : State) (sc : Script) : State :=
  { s with input := (assemble sc).map .word ++ s.input }

end Sys2Proof.Machine
end

