-- ==== Sys2Proof/Safety.lean ====
section
/-!
DEFINITION. What counts as a safe state and a safe run, in the terms the statements use: the invariants of 10_state.md
R23 and R25, the closed reference system of 20_memory.md R55, and the runs of EDGEs that R123 and R134 speak of.
-/

namespace Sys2Proof.Machine

/-- A value that was read from PERIOD is inside FLOOR..CEILING (R47). -/
def reportLegal (c : Config) : Report → Bool
  | .detent _ => true
  | .period p => periodLegal c p
  | .tickRead p => periodLegal c p

/-- The invariant of the machine at configuration `c`. -/
structure State.Inv (c : Config) (s : State) : Prop where
  /-- R23(a): -(THRESHOLD-1) ≤ ACC ≤ THRESHOLD-1 between operations. -/
  acc : accLegal c s.block.acc = true
  /-- R25: FLOOR ≤ PERIOD ≤ CEILING. -/
  period : periodLegal c s.block.period = true
  /-- R183: the blinker's counter is stored reduced, so it is below the largest period. -/
  tickCnt : s.env.tickCnt.toNat < c.ceiling
  /-- R47: every value read so far was a legal one. -/
  history : s.history.all (reportLegal c) = true

/-- The index an EDGE or a transition code looks up in a state: formed of HIST and the sample (R91), or the code's own
(log entry 2); `none` for the other operations. -/
def edgeIndex (i : Instr) (s : State) : Option Index :=
  match i with
  | .edge smp => some (index s.block.hist smp)
  | i => i.transitionIndex

/-- The state an EDGE leaves (R131): its sample in HIST, the given ACC and PERIOD, both indications cleared, the result
returned; every other part as it was. -/
def State.afterEdge (s : State) (smp : Sample) (acc : Acc) (period : Ticks) (d : Option Detent) : State :=
  { s with
    block := { hist := smp, acc := acc, period := period },
    env := { s.env with pendA := false, pendB := false },
    history := .detent d :: s.history }

/-- `k` steps, stopping at the first fault or refusal: Host.Core.run of this machine, written over `State`
(Sys2Proof/Laws/Run.lean proves the two equal). -/
def run : Nat → State → Result
  | 0, s => .next s
  | k + 1, s => andThen (step s) (run k)

/-- What the closed reference system delivers: no SETP, no stand-alone APPLY, and no EDGE but the encoder handler's own
(C3, R11, R55). -/
def Input.closedSystem : Input → Bool
  | .line _ _ => true
  | .handler => true
  | .envReset _ _ => true
  | .word w =>
    match decode w with
    | .ok .tick => true
    | .ok .getp => true
    | .ok .nop => true
    | .ok .reset => true
    | .ok _ => false
    | .error _ => false

/-- The detents among what was returned, newest first. -/
def detents (h : List Report) : List Detent :=
  h.filterMap fun r =>
    match r with
    | .detent d => d
    | .period _ => none
    | .tickRead _ => none

/-- The deliveries of one EDGE per sample. -/
def edgeInputs (l : List Sample) : List Input := l.map fun smp => .word (encode (.edge smp))

/-- The steps a sequence of samples decodes to, from a given history (R91, R93). -/
def stepsFrom (h : Sample) : List Sample → List Int
  | [] => []
  | smp :: rest => memRead (index h smp) :: stepsFrom smp rest

/-- A sequence of samples made of hold and valid transitions only: at most one line differs at a time (R71). -/
def noDouble (h : Sample) : List Sample → Bool
  | [] => true
  | smp :: rest => decide (smp ≠ ~~~h) && noDouble smp rest

/-- `k` ticks delivered next. -/
def tickInputs (k : Nat) : List Input := List.replicate k (.word (encode .tick))

/-- The block over the mathematical integers, as the pseudocode of the spec computes (R9; R22: "a model may instead hold
it as an unbounded integer"). -/
structure IntBlock where
  hist   : Sample
  acc    : Int
  period : Int
  deriving DecidableEq, Repr

/-- The block as integers: ACC read as signed, PERIOD as unsigned. -/
def Block.toInts (b : Block) : IntBlock := { hist := b.hist, acc := b.acc.toInt, period := b.period.toNat }

/-- `CLAMP` over the integers (R150). -/
def intClamp (c : Config) (v : Int) : Int := min (max v c.floor) c.ceiling

/-- `APPLY_CW` over the integers, `div` truncating toward zero (R9, R151). -/
def intShrink (c : Config) (p : Int) : Int := if p > c.floor then intClamp c (p - p.tdiv c.rateDiv) else p

/-- `APPLY_CCW` over the integers (R152). -/
def intGrow (c : Config) (p : Int) : Int := if p < c.ceiling then intClamp c (p + p.tdiv c.rateDiv) else p

/-- The listing of R131 over the integers: the block after an EDGE of index `ti`, and the emitted detent. -/
def intEdge (c : Config) (ti : Index) (b : IntBlock) : IntBlock × Option Detent :=
  let a := b.acc + memRead ti
  if a = c.threshold then
    ({ hist := currentSample ti, acc := 0, period := intShrink c b.period }, some .cw)
  else if a = -c.threshold then
    ({ hist := currentSample ti, acc := 0, period := intGrow c b.period }, some .ccw)
  else
    ({ hist := currentSample ti, acc := a, period := b.period }, none)

end Sys2Proof.Machine
end

