-- ==== Sys2Proof/Certificates/Slice0/Obligations.lean ====
section
/-!
DEFINITION. The statements for the provers. "R<n>" is a rule of spec/, "V<n>" a vector of 95_test_vectors.md. ACC and
PERIOD bounds are written as numbers where a statement is about the reference machine: -3 ≤ ACC ≤ 3 is R23(a) and
10 ≤ PERIOD ≤ 3000 is R25; the spec defines no behaviour in other states (93_implementation_defined.md U8).
-/

open Sys2Proof Sys2Proof.Machine

/-! ## Encoding -/

/-- Words written out from R69 and V29 decode to what they stand for; words of V30 are rejected. -/
def Obligations.SpecWordsDecode : Prop :=
  decode (.ev36 0x000000000) = .ok .nop ∧
  decode (.ev36 0x100000001) = .ok (.edge 0b01) ∧
  decode (.ev36 0x100000002) = .ok (.edge 0b10) ∧
  decode (.ev36 0x200000000) = .ok .getp ∧
  decode (.ev36 0x3000001F4) = .ok (.setp 500) ∧
  decode (.ev36 0x400000000) = .ok .applyCw ∧
  decode (.ev36 0x500000000) = .ok .applyCcw ∧
  decode (.ev36 0x600000000) = .ok .tick ∧
  decode (.ev36 0xF00000000) = .ok .reset ∧
  decode (.ti4 0b0111) = .ok .t07 ∧
  decode (.ti4 0b1011) = .ok .t11 ∧
  decode (.ev36 0x700000000) = .error (.reservedOp 0x7) ∧
  decode (.ev36 0xA12345678) = .error (.reservedOp 0xA) ∧
  decode (.ev36 0x100000004) = .error (.nonzeroField 0x1) ∧
  decode (.ev36 0x680000000) = .error (.nonzeroField 0x6)

/-- Decode and encode agree: every instruction, with every operand value, is read back from its word. -/
def Obligations.DecodeInvertsEncode : Prop :=
  ∀ i : Instr, decode (encode i) = .ok i

/-- The other direction: every word that decodes is the word of what it decodes to, so a word has one meaning. -/
def Obligations.EncodeInvertsDecode : Prop :=
  ∀ (w : EventWord) (i : Instr), decode w = .ok i → encode i = w

/-- The decoder, written from the fields of R68, and the mask-and-match rows of the opcode table classify every word
alike (R75). -/
def Obligations.DecoderAgreesWithOpcodeTable : Prop :=
  ∀ w : EventWord,
    (∀ i, decode w = .ok i → ∃ r ∈ opcodeTable, r.covers w = true ∧ r.mnemonic = i.mnemonic) ∧
    (∀ r ∈ opcodeTable, r.covers w = true → ∃ i, decode w = .ok i ∧ i.mnemonic = r.mnemonic)

/-- R70: exactly the event words with a reserved op or a non-zero bit in a field that must be 0 spell no operation, and
delivering one is refused. The fields are read here by division, not by the decoder's functions. -/
def Obligations.IllegalEventWordsAreRefused : Prop :=
  ∀ w : EventBits,
    let op := w.toNat / 2 ^ 32
    let arg := w.toNat % 2 ^ 32
    let illegal := (7 ≤ op ∧ op ≤ 14) ∨ (op = 1 ∧ arg / 4 ≠ 0) ∨
      ((op = 0 ∨ op = 2 ∨ op = 4 ∨ op = 5 ∨ op = 6 ∨ op = 15) ∧ arg ≠ 0)
    ((∃ r, decode (.ev36 w) = .error r) ↔ illegal) ∧
    (illegal → ∀ (s : State) (rest : List Input), s.input = .word (.ev36 w) :: rest →
      ∃ r, step s = .refused (.illegalWord r))

/-! ## The step table -/

/-- R94: the StepTable, index by index. -/
def Obligations.StepTableEntries : Prop :=
  memRead 0 = 0 ∧ memRead 1 = -1 ∧ memRead 2 = 1 ∧ memRead 3 = 0 ∧
  memRead 4 = 1 ∧ memRead 5 = 0 ∧ memRead 6 = 0 ∧ memRead 7 = -1 ∧
  memRead 8 = -1 ∧ memRead 9 = 0 ∧ memRead 10 = 0 ∧ memRead 11 = 1 ∧
  memRead 12 = 0 ∧ memRead 13 = 1 ∧ memRead 14 = -1 ∧ memRead 15 = 0

/-- R95: the closed form of the table over the bits pB, pA, cB, cA of the index. -/
def Obligations.StepTableClosedForm : Prop :=
  ∀ ti : Index,
    let pB := ti.getLsbD 3
    let pA := ti.getLsbD 2
    let cB := ti.getLsbD 1
    let cA := ti.getLsbD 0
    let moved := (pA ^^ cA) ^^ (pB ^^ cB)
    memRead ti = if moved = false then 0 else if (pA ^^ cB) = true then 1 else -1

/-- R65: the packed constants hold the table. -/
def Obligations.PackedTableConstants : Prop :=
  (∀ ti : Index,
    (lut32 >>> (2 * ti.toNat)).extractLsb' 0 2 = st2 (memRead ti) ∧
    (inc16.getLsbD ti.toNat = true ↔ memRead ti = 1) ∧
    (dec16.getLsbD ti.toNat = true ↔ memRead ti = -1) ∧
    (inc16.getLsbD ti.toNat = false → dec16.getLsbD ti.toNat = false → memRead ti = 0)) ∧
  inc16 &&& dec16 = 0 ∧ lut32 = 0x3443C11C ∧ inc16 = 0x2814 ∧ dec16 = 0x4182

/-- R112 (a) to (e): totality, the counts, antisymmetry, the two closed cycles, the magnitude. -/
def Obligations.StepTableProperties : Prop :=
  (∀ ti : Index, memRead ti = -1 ∨ memRead ti = 0 ∨ memRead ti = 1) ∧
  ((List.range 16).filter fun n => memRead (BitVec.ofNat 4 n) = 1).length = 4 ∧
  ((List.range 16).filter fun n => memRead (BitVec.ofNat 4 n) = -1).length = 4 ∧
  ((List.range 16).filter fun n => memRead (BitVec.ofNat 4 n) = 0).length = 8 ∧
  (∀ p q : Sample, memRead (index q p) = -memRead (index p q)) ∧
  (stepsFrom 0 [2, 3, 1, 0]).sum = 4 ∧ (stepsFrom 0 [1, 3, 2, 0]).sum = -4

/-- R112 (f), of which the spec says that it did not derive it: over a closed walk of samples that uses only hold and
valid transitions, the steps sum to a multiple of 4. -/
def Obligations.ClosedWalkSumsToMultipleOfFour : Prop :=
  ∀ (h : Sample) (l : List Sample),
    noDouble h l = true → l.getLastD h = h → ∃ k : Int, (stepsFrom h l).sum = 4 * k

/-- R64 and R122: a step in 2 bits, and the exact sum with its sign extension for every ACC in -3..+3. -/
def Obligations.SignExtendedStepAddsExactly : Prop :=
  st2 0 = 0b00 ∧ st2 1 = 0b01 ∧ st2 (-1) = 0b11 ∧
  sextStep (st2 1) = 0b0001 ∧ sextStep (st2 0) = 0b0000 ∧ sextStep (st2 (-1)) = 0b1111 ∧
  (∀ ti : Index, st2 (memRead ti) ≠ 0b10 ∧ (st2 (memRead ti)).toInt = memRead ti) ∧
  (∀ (a : Acc) (ti : Index), -3 ≤ a.toInt → a.toInt ≤ 3 →
    (a + sextStep (st2 (memRead ti))).toInt = a.toInt + memRead ti)

/-- R63: the assembly of the index and its four fields. -/
def Obligations.IndexAssembly : Prop :=
  ∀ h s : Sample,
    (index h s).toNat = 4 * h.toNat + s.toNat ∧
    (index h s).getLsbD 3 = h.getLsbD 1 ∧ (index h s).getLsbD 2 = h.getLsbD 0 ∧
    (index h s).getLsbD 1 = s.getLsbD 1 ∧ (index h s).getLsbD 0 = s.getLsbD 0 ∧
    (index h s).toNat ≤ 15 ∧ previousSample (index h s) = h ∧ currentSample (index h s) = s

/-- R245: two quarter-steps in one direction seen as one sample give step 0; three give the opposite step. -/
def Obligations.MissedQuarterSteps : Prop :=
  ∀ p q r u : Sample, memRead (index p q) ≠ 0 →
    memRead (index q r) = memRead (index p q) → memRead (index r u) = memRead (index p q) →
    memRead (index p r) = 0 ∧ memRead (index p u) = -memRead (index p q)

/-- R247: the error of the first EDGE after RESET is at most 2, and 2 is reached. -/
def Obligations.ResetHistoryErrorIsAtMostTwo : Prop :=
  (∀ h s : Sample, |memRead (index 0 s) - memRead (index h s)| ≤ 2) ∧
  memRead (index 0 2) - memRead (index 3 2) = 2 ∧ memRead (index 0 1) - memRead (index 3 1) = -2

/-! ## Transition codes and EDGE -/

/-- The eight codes with step 0 (hold and double): their fields, their table entry, and the whole next state. HIST
becomes the current sample, ACC and PERIOD stay, nothing is emitted, both indications are cleared. That the code does so
whatever HIST was is the model's choice (log entry 2); where HIST is the code's previous sample it is R96, R99, R101, R102,
R105, R106, R108 and R111. -/
def Obligations.HoldAndDoubleTransitions : Prop :=
  ∀ (i : Instr) (p q : Sample),
    (i, p, q) ∈ ([(.t00, 0, 0), (.t03, 0, 3), (.t05, 1, 1), (.t06, 1, 2), (.t09, 2, 1), (.t10, 2, 2),
      (.t12, 3, 0), (.t15, 3, 3)] : List (Instr × Sample × Sample)) →
    i.transitionIndex = some (index p q) ∧ memRead (index p q) = 0 ∧
    ∀ s : State, -3 ≤ s.block.acc.toInt → s.block.acc.toInt ≤ 3 →
      exec i s = .next (s.afterEdge q s.block.acc s.block.period none)

/-- The four codes with step +1: ACC counts up, or at +3 a CW is emitted, ACC is cleared and PERIOD shrinks. That the code
does so whatever HIST was is the model's choice (log entry 2); where HIST is the code's previous sample it is R98, R100,
R107 and R109. -/
def Obligations.PositiveTransitions : Prop :=
  ∀ (i : Instr) (p q : Sample),
    (i, p, q) ∈ ([(.t02, 0, 2), (.t04, 1, 0), (.t11, 2, 3), (.t13, 3, 1)] : List (Instr × Sample × Sample)) →
    i.transitionIndex = some (index p q) ∧ memRead (index p q) = 1 ∧
    ∀ s : State,
      (-3 ≤ s.block.acc.toInt → s.block.acc.toInt ≤ 2 →
        exec i s = .next (s.afterEdge q (BitVec.ofInt 4 (s.block.acc.toInt + 1)) s.block.period none)) ∧
      (s.block.acc.toInt = 3 → 10 ≤ s.block.period.toNat → s.block.period.toNat ≤ 3000 →
        exec i s = .next (s.afterEdge q 0
          (BitVec.ofNat 32 (if s.block.period.toNat > 10
            then s.block.period.toNat - s.block.period.toNat / 10 else s.block.period.toNat)) (some .cw)))

/-- The four codes with step -1: ACC counts down, or at -3 a CCW is emitted, ACC is cleared and PERIOD grows. That the code
does so whatever HIST was is the model's choice (log entry 2); where HIST is the code's previous sample it is R97, R103,
R104 and R110. -/
def Obligations.NegativeTransitions : Prop :=
  ∀ (i : Instr) (p q : Sample),
    (i, p, q) ∈ ([(.t01, 0, 1), (.t07, 1, 3), (.t08, 2, 0), (.t14, 3, 2)] : List (Instr × Sample × Sample)) →
    i.transitionIndex = some (index p q) ∧ memRead (index p q) = -1 ∧
    ∀ s : State,
      (-2 ≤ s.block.acc.toInt → s.block.acc.toInt ≤ 3 →
        exec i s = .next (s.afterEdge q (BitVec.ofInt 4 (s.block.acc.toInt - 1)) s.block.period none)) ∧
      (s.block.acc.toInt = -3 → 10 ≤ s.block.period.toNat → s.block.period.toNat ≤ 3000 →
        exec i s = .next (s.afterEdge q 0
          (BitVec.ofNat 32 (if s.block.period.toNat < 3000
            then min (s.block.period.toNat + s.block.period.toNat / 10) 3000 else s.block.period.toNat))
          (some .ccw)))

/-- EDGE performs exactly the transition code that HIST and the sample form (R63, R91). -/
def Obligations.EdgeIsTheTransitionOfItsIndex : Prop :=
  ∀ (s : State) (smp : Sample) (i : Instr),
    decode (.ti4 (index s.block.hist smp)) = .ok i → exec (.edge smp) s = exec i s

/-- The listing of R131 for EDGE: its word, and the whole next state in each of its three branches. -/
def Obligations.EdgeOperation : Prop :=
  (∀ smp : Sample, encode (.edge smp) = .ev36 (BitVec.ofNat 36 (0x100000000 + smp.toNat))) ∧
  ∀ (s : State) (smp : Sample), -3 ≤ s.block.acc.toInt → s.block.acc.toInt ≤ 3 →
    10 ≤ s.block.period.toNat → s.block.period.toNat ≤ 3000 →
    let a := s.block.acc.toInt + memRead (index s.block.hist smp)
    let p := s.block.period.toNat
    (a = 4 → exec (.edge smp) s =
      .next (s.afterEdge smp 0 (BitVec.ofNat 32 (if p > 10 then p - p / 10 else p)) (some .cw))) ∧
    (a = -4 → exec (.edge smp) s =
      .next (s.afterEdge smp 0 (BitVec.ofNat 32 (if p < 3000 then min (p + p / 10) 3000 else p)) (some .ccw))) ∧
    (a ≠ 4 → a ≠ -4 → ∃ v : Acc, v.toInt = a ∧
      exec (.edge smp) s = .next (s.afterEdge smp v s.block.period none))

/-- R131 corner case (b) and R240: an EDGE whose sample equals HIST changes no register, and still acknowledges. -/
def Obligations.RepeatedSampleChangesNoRegister : Prop :=
  ∀ s : State, -3 ≤ s.block.acc.toInt → s.block.acc.toInt ≤ 3 →
    exec (.edge s.block.hist) s = .next (s.afterEdge s.block.hist s.block.acc s.block.period none)

/-- R132: the acknowledge clears both indications and nothing else, and every EDGE and transition code performs it. -/
def Obligations.EveryEdgeAcknowledgesBothLines : Prop :=
  (∀ s : State, ackEdges s = { s with env := { s.env with pendA := false, pendB := false } }) ∧
  (∀ (i : Instr) (s t : State), i.isEdge = true → exec i s = .next t →
    t.env = { s.env with pendA := false, pendB := false })

/-- The 4-bit, 32-bit machine computes what the integer pseudocode of R131 computes, at every admitted configuration, for
EDGE from every legal state (R9, R22, R121: no sum is ever truncated). -/
def Obligations.EdgeRefinesIntegerPseudocode : Prop :=
  ∀ (c : Config) (s : State) (smp : Sample), c.admitted = true →
    accLegal c s.block.acc = true → periodLegal c s.block.period = true →
    ∃ t, execWith c (.edge smp) s = .next t ∧
      t.block.toInts = (intEdge c (index s.block.hist smp) s.block.toInts).1 ∧
      t.history = .detent (intEdge c (index s.block.hist smp) s.block.toInts).2 :: s.history

/-- R123: over EDGEs among which no detent is emitted, ACC changes by the sum of their steps. -/
def Obligations.AccumulatorCountsSteps : Prop :=
  ∀ (l : List Sample) (s : State) (rest : List Input), s.booted = true →
    -3 ≤ s.block.acc.toInt → s.block.acc.toInt ≤ 3 →
    10 ≤ s.block.period.toNat → s.block.period.toNat ≤ 3000 →
    s.input = edgeInputs l ++ rest →
    ∃ t, run l.length s = .next t ∧ t.input = rest ∧ t.block.hist = l.getLastD s.block.hist ∧
      (detents t.history = detents s.history →
        t.block.acc.toInt = s.block.acc.toInt + (stepsFrom s.block.hist l).sum ∧ t.block.period = s.block.period)

/-- Bounce immunity (R123): jitter between the sample in HIST and any other, from an ACC that the first edge does not
bring to the threshold, never emits a detent and ends where it began. -/
def Obligations.BounceImmunity : Prop :=
  ∀ (n : Nat) (s : State) (smp : Sample) (rest : List Input), s.booted = true →
    -3 ≤ s.block.acc.toInt → s.block.acc.toInt ≤ 3 →
    -3 ≤ s.block.acc.toInt + memRead (index s.block.hist smp) →
    s.block.acc.toInt + memRead (index s.block.hist smp) ≤ 3 →
    s.input = edgeInputs (List.replicate n [smp, s.block.hist]).flatten ++ rest →
    ∃ t, run (2 * n) s = .next t ∧ t.block = s.block ∧ detents t.history = detents s.history

/-- R134: one clean positive cycle from (0, 0) emits exactly one CW, at its fourth EDGE, and one clean negative cycle
exactly one CCW. -/
def Obligations.OneCycleIsOneDetent : Prop :=
  ∀ (s : State) (rest : List Input), s.booted = true → s.block.hist = 0 → s.block.acc = 0 →
    10 ≤ s.block.period.toNat → s.block.period.toNat ≤ 3000 →
    (s.input = (cyclePlusEvents.map fun i => Input.word (encode i)) ++ rest →
      ∃ t u, run 3 s = .next t ∧ detents t.history = detents s.history ∧
        run 4 s = .next u ∧ detents u.history = .cw :: detents s.history ∧
        u.block.hist = 0 ∧ u.block.acc = 0 ∧
        u.block.period.toNat = shrunkPeriod reference s.block.period.toNat) ∧
    (s.input = (cycleMinusEvents.map fun i => Input.word (encode i)) ++ rest →
      ∃ t u, run 3 s = .next t ∧ detents t.history = detents s.history ∧
        run 4 s = .next u ∧ detents u.history = .ccw :: detents s.history ∧
        u.block.hist = 0 ∧ u.block.acc = 0 ∧
        u.block.period.toNat = grownPeriod reference s.block.period.toNat)

/-- R134: from ACC = 0 no sequence of fewer than four EDGEs emits a detent. -/
def Obligations.NoDetentWithinThreeEdges : Prop :=
  ∀ (l : List Sample) (s : State) (rest : List Input), l.length ≤ 3 → s.booted = true → s.block.acc = 0 →
    s.input = edgeInputs l ++ rest →
    ∃ t, run l.length s = .next t ∧ detents t.history = detents s.history ∧
      t.block.period = s.block.period

/-! ## The rate controller -/

/-- R150: CLAMP, and that every operation but RESET writes PERIOD through it. -/
def Obligations.PeriodWritesPassThroughClamp : Prop :=
  (∀ (c : Config) (v : Nat), c.floor ≤ c.ceiling →
    clamp c v = if v < c.floor then c.floor else if v > c.ceiling then c.ceiling else v) ∧
  (∀ v : Nat, clamp reference v = if v ≤ 10 then 10 else if v ≥ 3000 then 3000 else v) ∧
  (∀ (i : Instr) (s t : State), i ≠ .reset → exec i s = .next t →
    t.block.period = s.block.period ∨ ∃ v, t.block.period = BitVec.ofNat 32 (clamp reference v))

/-- R151: APPLY_CW, its word, the whole next state, and its corner cases. -/
def Obligations.ApplyCwShrinksThePeriod : Prop :=
  encode .applyCw = .ev36 0x400000000 ∧
  (∀ s : State, 10 ≤ s.block.period.toNat → s.block.period.toNat ≤ 3000 →
    let p := s.block.period.toNat
    (p > 10 → 10 ≤ p - p / 10 ∧ clamp reference (p - p / 10) = p - p / 10 ∧
      exec .applyCw s = .next { s with block := { s.block with period := BitVec.ofNat 32 (p - p / 10) } }) ∧
    (p = 10 → exec .applyCw s = .next s)) ∧
  shrunkPeriod reference 11 = 10 ∧ shrunkPeriod reference 19 = 18 ∧ shrunkPeriod reference 20 = 18 ∧
  shrunkPeriod reference 3000 = 2700 ∧ shrunkPeriod reference 1000 = 900 ∧ shrunkPeriod reference 900 = 810

/-- R152: APPLY_CCW, its word, the whole next state, and its corner cases. The clamp binds exactly from 2729 on (C1,
V23). -/
def Obligations.ApplyCcwGrowsThePeriod : Prop :=
  encode .applyCcw = .ev36 0x500000000 ∧
  (∀ s : State, 10 ≤ s.block.period.toNat → s.block.period.toNat ≤ 3000 →
    let p := s.block.period.toNat
    (p < 3000 → p + p / 10 ≤ 3298 ∧ (p + p / 10 > 3000 ↔ 2729 ≤ p) ∧
      exec .applyCcw s =
        .next { s with block := { s.block with period := BitVec.ofNat 32 (min (p + p / 10) 3000) } }) ∧
    (p = 3000 → exec .applyCcw s = .next s)) ∧
  grownPeriod reference 2999 = 3000 ∧ grownPeriod reference 2850 = 3000 ∧ grownPeriod reference 2728 = 3000 ∧
  grownPeriod reference 2727 = 2999 ∧ grownPeriod reference 10 = 11 ∧ grownPeriod reference 810 = 891

/-- R154: SETP, its word, and from any state the whole next state. -/
def Obligations.SetpClamps : Prop :=
  ∀ (s : State) (v : Ticks), encode (.setp v) = .ev36 (0x3#4 ++ v) ∧
    (v.toNat < 10 → exec (.setp v) s = .next { s with block := { s.block with period := 10 } }) ∧
    (10 ≤ v.toNat → v.toNat ≤ 3000 → exec (.setp v) s = .next { s with block := { s.block with period := v } }) ∧
    (3000 < v.toNat → exec (.setp v) s = .next { s with block := { s.block with period := 3000 } })

/-- R155: GETP returns PERIOD whole and changes no state of the block or the environment; after RESET it is 1000. -/
def Obligations.GetpReturnsThePeriod : Prop :=
  encode .getp = .ev36 0x200000000 ∧
  (∀ s : State, 10 ≤ s.block.period.toNat → s.block.period.toNat ≤ 3000 →
    exec .getp s = .next { s with history := .period s.block.period :: s.history }) ∧
  (∀ s : State, ∃ t u, exec .reset s = .next t ∧ exec .getp t = .next u ∧ u.history = .period 1000 :: s.history)

/-- R157, at every admitted configuration: the rate operations complete and keep PERIOD inside its bounds, never zero. -/
def Obligations.RateOperationsKeepThePeriodInRange : Prop :=
  ∀ (c : Config) (s : State) (v : Ticks) (i : Instr), c.admitted = true → periodLegal c s.block.period = true →
    i ∈ ([.applyCw, .applyCcw, .setp v] : List Instr) →
    ∃ t, execWith c i s = .next t ∧ periodLegal c t.block.period = true ∧ t.block.period ≠ 0

/-- R158, at every admitted configuration: a strict change until the bound, none at it; at the reference values 49
steps from 1000 to the floor and 12 to the ceiling. -/
def Obligations.RateIsStrictlyMonotone : Prop :=
  (∀ (c : Config) (s : State), c.admitted = true → periodLegal c s.block.period = true →
    ∃ t u, execWith c .applyCw s = .next t ∧ execWith c .applyCcw s = .next u ∧
      (c.floor < s.block.period.toNat → t.block.period.toNat < s.block.period.toNat) ∧
      (s.block.period.toNat = c.floor → t.block.period = s.block.period) ∧
      (s.block.period.toNat < c.ceiling → s.block.period.toNat < u.block.period.toNat) ∧
      (s.block.period.toNat = c.ceiling → u.block.period = s.block.period)) ∧
  (shrunkPeriod reference)^[48] 1000 = 11 ∧ (shrunkPeriod reference)^[49] 1000 = 10 ∧
  (grownPeriod reference)^[11] 1000 = 2850 ∧ (grownPeriod reference)^[12] 1000 = 3000

/-- R159: any number of detents in the saturating direction leaves PERIOD; the EDGE still emits its detent and changes
HIST and ACC; the next detent in the other direction leaves the bound. -/
def Obligations.SaturationIsSilent : Prop :=
  (∀ (n : Nat) (s : State) (rest : List Input), s.booted = true → s.block.period = 10 →
    s.input = List.replicate n (.word (encode .applyCw)) ++ rest →
    run n s = .next { s with input := rest }) ∧
  (∀ (n : Nat) (s : State) (rest : List Input), s.booted = true → s.block.period = 3000 →
    s.input = List.replicate n (.word (encode .applyCcw)) ++ rest →
    run n s = .next { s with input := rest }) ∧
  (∀ (s : State) (smp : Sample), s.block.period = 10 → s.block.acc.toInt = 3 →
    memRead (index s.block.hist smp) = 1 → exec (.edge smp) s = .next (s.afterEdge smp 0 10 (some .cw))) ∧
  (∀ (s : State) (smp : Sample), s.block.period = 3000 → s.block.acc.toInt = -3 →
    memRead (index s.block.hist smp) = -1 → exec (.edge smp) s = .next (s.afterEdge smp 0 3000 (some .ccw))) ∧
  (∀ s : State, s.block.period = 10 →
    exec .applyCcw s = .next { s with block := { s.block with period := 11 } }) ∧
  (∀ s : State, s.block.period = 3000 →
    exec .applyCw s = .next { s with block := { s.block with period := 2700 } })

/-! ## The blinker, the edge source and NOP -/

/-- R183: TICK, its word, the whole next state, and the fault at PERIOD = 0 (U4). The model's own: the name of that fault
(log entry 8), the sum TICKCNT + 1 without a 32-bit wrap, which shows only at TICKCNT = 2^32 - 1 (log entry 18), and the
recording of the value read (log entry 11). -/
def Obligations.TickCountsModuloThePeriod : Prop :=
  encode .tick = .ev36 0x600000000 ∧
  ∀ s : State,
    (s.block.period = 0 → exec .tick s = .fault .zeroPeriod) ∧
    (10 ≤ s.block.period.toNat → s.block.period.toNat ≤ 3000 →
      let n := (s.env.tickCnt.toNat + 1) % s.block.period.toNat
      exec .tick s = .next { s with
        env := { s.env with
          tickCnt := BitVec.ofNat 32 n,
          out := if n = 0 then !s.env.out else s.env.out },
        history := .tickRead s.block.period :: s.history })

/-- R184: with a steady PERIOD p and TICKCNT < p, OUT toggles exactly once in p ticks, at the tick that wraps. -/
def Obligations.OutTogglesOncePerPeriod : Prop :=
  ∀ (k : Nat) (s : State) (rest : List Input), s.booted = true →
    10 ≤ s.block.period.toNat → s.block.period.toNat ≤ 3000 →
    s.env.tickCnt.toNat < s.block.period.toNat → k ≤ s.block.period.toNat →
    s.input = tickInputs k ++ rest →
    ∃ t, run k s = .next t ∧ t.block = s.block ∧
      t.env.tickCnt.toNat = (s.env.tickCnt.toNat + k) % s.block.period.toNat ∧
      t.env.out = if s.env.tickCnt.toNat + k < s.block.period.toNat then s.env.out else !s.env.out

/-- The edge source of R181: LINE sets the indication of a line that changes; the handler's EDGE runs exactly when an
indication is pending and samples LA + 2*LB. That a scheduled handler with none pending does nothing is the model's
choice (log entry 17). -/
def Obligations.EdgeSourceModel : Prop :=
  (∀ (s : State) (a b : Bool) (rest : List Input), s.input = .line a b :: rest →
    ∃ t, step s = .next t ∧ t.env.lineA = a ∧ t.env.lineB = b ∧
      (t.env.pendA = true ↔ s.env.pendA = true ∨ a ≠ s.env.lineA) ∧
      (t.env.pendB = true ↔ s.env.pendB = true ∨ b ≠ s.env.lineB) ∧
      t.env.tickCnt = s.env.tickCnt ∧ t.env.out = s.env.out ∧
      t.block = s.block ∧ t.booted = s.booted ∧ t.input = rest ∧ t.history = s.history) ∧
  (∀ s : State, (lineRead s).toNat = s.env.lineA.toNat + 2 * s.env.lineB.toNat) ∧
  (∀ (s : State) (rest : List Input), s.input = .handler :: rest → s.booted = true →
    ((s.env.pendA = true ∨ s.env.pendB = true) → step s = exec (.edge (lineRead s)) { s with input := rest }) ∧
    (s.env.pendA = false → s.env.pendB = false → step s = .next { s with input := rest }))

/-- R181: the unconstrained environment admits what the closed one does: the handler's EDGE is the step that an event
word with the lines' sample gives. -/
def Obligations.HandlerEdgeIsAnEventWord : Prop :=
  ∀ (s : State) (rest : List Input), s.booted = true → (s.env.pendA = true ∨ s.env.pendB = true) →
    step { s with input := .handler :: rest } = step { s with input := .word (encode (.edge (lineRead s))) :: rest }

/-- R185: NOP, its word, and that no state changes, nothing is returned and nothing is acknowledged. -/
def Obligations.NopChangesNothing : Prop :=
  encode .nop = .ev36 0 ∧ ∀ s : State, exec .nop s = .next s

/-- With nothing delivered the machine waits, unchanged, for any number of steps (R231, R252; log entry 16). -/
def Obligations.NothingDeliveredChangesNothing : Prop :=
  ∀ (n : Nat) (s : State), s.input = [] → run n s = .next s

/-! ## Reset -/

/-- RESET, its word, and its effect: the block at (0, 0, 1000) (R230). That lines, indications, blinker, deliveries and
history stay as they were is the model's reading of R232 and R234 (log entry 4). -/
def Obligations.ResetOperation : Prop :=
  encode .reset = .ev36 0xF00000000 ∧
  ∀ s : State, ∃ t, exec .reset s = .next t ∧ t.block = { hist := 0, acc := 0, period := 1000 } ∧
    t.env = s.env ∧ t.input = s.input ∧ t.history = s.history

/-- R35: the values of the state after reset, with the lines at any levels. The zeros of PEND_A, PEND_B, TICKCNT and OUT
are the spec's own choice (D18, D20); the line levels of `State.reset` are the model's (log entry 3) and are not stated. The
last clause is the environment's own initialisation (R231, R232): it gives the external state these values, with the lines
as delivered, and leaves all else. That it is a delivery of its own, possible in any state, is the model's choice (log
entries 4 and 23). -/
def Obligations.ResetState : Prop :=
  (∀ a b : Bool,
    (State.resetAt a b).block = { hist := 0, acc := 0, period := 1000 } ∧
    (State.resetAt a b).env =
      { lineA := a, lineB := b, pendA := false, pendB := false, tickCnt := 0, out := false }) ∧
  (∃ a b, State.reset = State.resetAt a b) ∧
  (∀ (s : State) (a b : Bool) (rest : List Input), s.input = .envReset a b :: rest →
    step s = .next { s with
      env := { lineA := a, lineB := b, pendA := false, pendB := false, tickCnt := 0, out := false }, input := rest })

/-- Before the first RESET every word but RESET is refused (R233), and so is the encoder handler, whether or not an
indication is pending (R187 forbids its EDGE; the refusal and the flag `booted` are the model's, log entry 6). RESET gives
the reset block. -/
def Obligations.BeforeTheFirstReset : Prop :=
  ∀ (s : State) (rest : List Input), s.booted = false →
    (∀ w : EventWord, s.input = .word w :: rest →
      (w ≠ encode .reset → ∃ r, step s = .refused r) ∧
      (w = encode .reset → ∃ t, step s = .next t ∧ t.booted = true ∧
        t.block = { hist := 0, acc := 0, period := 1000 })) ∧
    (s.input = .handler :: rest → step s = .refused .beforeReset)

/-! ## The step -/

/-- A step performs the decoded instruction: the delivered word is taken from the input, and what is left is `exec`. A
delivered transition code is performed where HIST holds its previous sample and refused elsewhere: the model's choice (log
entry 2), since R63 forms the index of HIST. -/
def Obligations.StepRunsTheDecodedInstruction : Prop :=
  (∀ (s : State) (w : EventWord) (i : Instr) (rest : List Input), s.input = .word w :: rest → decode w = .ok i →
    (s.booted = true ∨ i = .reset) →
    (∀ ti, w = .ti4 ti → s.block.hist = previousSample ti) →
    step s = exec i { s with input := rest }) ∧
  (∀ (s : State) (ti : Index) (rest : List Input), s.input = .word (.ti4 ti) :: rest → s.booted = true →
    s.block.hist ≠ previousSample ti → step s = .refused .indexNotFormed)

/-- A word placed by `withFetchWord` is the next one performed. -/
def Obligations.FetchWordIsPerformedNext : Prop :=
  ∀ (s : State) (nbits w : Nat),
    (∀ i, decodeTableWord nbits w = some i →
      ∃ t : State, step (s.withFetchWord nbits w) = exec i t ∧ t.input = s.input ∧ t.env = s.env ∧
        t.history = s.history ∧ t.block.acc = s.block.acc ∧ t.block.period = s.block.period ∧
        (i.transitionIndex = none → t.block = s.block) ∧
        (∀ ti, i.transitionIndex = some ti → t.block.hist = previousSample ti)) ∧
    (decodeTableWord nbits w = none → ∃ r, step (s.withFetchWord nbits w) = .refused (.illegalWord r))

/-- R200, R201: from a legal state every instruction completes, and no step faults; a booted machine given event words
or moves refuses nothing but a word that spells no operation. That a transition code completes at any HIST is the model's
choice (log entry 2). -/
def Obligations.NothingFaultsFromALegalState : Prop :=
  ∀ s : State, s.Inv reference →
    (∀ i : Instr, ∃ t, exec i s = .next t) ∧
    (∀ f, step s ≠ .fault f) ∧
    (∀ r, s.booted = true → (∀ ti rest, s.input ≠ .word (.ti4 ti) :: rest) → step s = .refused r →
      ∃ x, r = .illegalWord x)

/-- U8 (the model's reading of "stuck", log entry 7): an instruction faults exactly where it reads a register the
invariants exclude, and `exec` never refuses. EDGE and the transition codes read ACC, and PERIOD where their sum reaches
the threshold; APPLY_CW, APPLY_CCW, GETP and TICK read PERIOD; NOP, SETP and RESET read neither. The fault of TICK at
PERIOD = 0 has its own name (log entry 8). -/
def Obligations.ExcludedStatesAreStuck : Prop :=
  ∀ (i : Instr) (s : State),
    (∀ ti, edgeIndex i s = some ti →
      let fires := s.block.acc.toInt + memRead ti = 4 ∨ s.block.acc.toInt + memRead ti = -4
      (accLegal reference s.block.acc = true → fires → periodLegal reference s.block.period = false →
        exec i s = .fault .periodOutOfRange) ∧
      (accLegal reference s.block.acc = true → (¬ fires ∨ periodLegal reference s.block.period = true) →
        ∃ t, exec i s = .next t)) ∧
    (i ∈ ([.applyCw, .applyCcw, .getp, .tick] : List Instr) → periodLegal reference s.block.period = true →
      ∃ t, exec i s = .next t) ∧
    (i = .tick → s.block.period = 0 → exec i s = .fault .zeroPeriod) ∧
    ((i = .nop ∨ i = .reset ∨ ∃ v, i = .setp v) → ∃ t, exec i s = .next t) ∧
    (i.isEdge = true → accLegal reference s.block.acc = false → exec i s = .fault .accOutOfRange) ∧
    (i ∈ ([.applyCw, .applyCcw, .getp] : List Instr) → periodLegal reference s.block.period = false →
      exec i s = .fault .periodOutOfRange) ∧
    (i = .tick → s.block.period ≠ 0 → periodLegal reference s.block.period = false →
      exec i s = .fault .periodOutOfRange) ∧
    (∀ f, exec i s = .fault f →
      accLegal reference s.block.acc = false ∨ periodLegal reference s.block.period = false) ∧
    (∀ r, exec i s ≠ .refused r)

/-- The invariants hold after reset, with the lines at any levels. -/
def Obligations.ResetMeetsTheInvariant : Prop :=
  ∀ a b : Bool, (State.resetAt a b).Inv reference

/-- Every step keeps the invariants of R23 and R25 (and that TICKCNT stays reduced and every value read was legal). -/
def Obligations.StepKeepsTheInvariant : Prop :=
  ∀ s t : State, s.Inv reference → step s = .next t → t.Inv reference

/-- The same at every admitted configuration (R7, D15). -/
def Obligations.StepKeepsTheInvariantAtEveryConfig : Prop :=
  ∀ (c : Config) (s t : State), c.admitted = true → s.Inv c → stepWith c s = .next t → t.Inv c

/-- The identity is the two names and the reference values (R1, R6), and the reference machine is the parametric one at
the reference configuration, which is admitted. -/
def Obligations.ReferenceMachineIsAnInstance : Prop :=
  (identity.block = "quadrature_decoder_lut" ∧ identity.repository = "kulbitsky99/STM32" ∧
    identity.parameters = reference) ∧
  (reference.threshold = 4 ∧ reference.floor = 10 ∧ reference.ceiling = 3000 ∧ reference.defaultPeriod = 1000 ∧
    reference.rateDiv = 10 ∧ reference.tickHz = 100) ∧
  reference.admitted = true ∧ (∀ i s, exec i s = execWith reference i s) ∧ (∀ s, step s = stepWith reference s)

/-- R7: what is admitted; that at anything else every instruction and every step is refused, moves of the environment and
waiting among them; and what the constraints give. -/
def Obligations.UnadmittedConfigIsRefused : Prop :=
  ∀ c : Config,
    let constraints := (c.threshold ≥ 1 ∧ c.threshold ≤ 2 ^ (4 - 1) - 1) ∧ c.rateDiv = 10 ∧
      (c.rateDiv ≤ c.floor ∧ c.floor ≤ c.defaultPeriod ∧ c.defaultPeriod ≤ c.ceiling) ∧
      c.ceiling + c.ceiling / c.rateDiv ≤ 2 ^ 32 - 1
    (c.admitted = true ↔ constraints) ∧
    (¬ constraints → ∀ (i : Instr) (s : State), execWith c i s = .refused .configNotAdmitted) ∧
    (¬ constraints → ∀ s : State, stepWith c s = .refused .configNotAdmitted) ∧
    (constraints → (∀ p, c.floor ≤ p → 1 ≤ p / 10) ∧ (c.floor ≤ c.defaultPeriod ∧ c.defaultPeriod ≤ c.ceiling) ∧
      (∀ p, p ≤ c.ceiling → p + p / c.rateDiv < 2 ^ 32)) ∧
    (constraints → c.floor = 20 → 21 ≤ c.ceiling → shrunkPeriod c 21 = 20)

/-! ## Whole-machine rules -/

/-- R24, R33, R153: PERIOD changes only under APPLY_CW, APPLY_CCW, SETP, RESET, or an EDGE that emits a detent. -/
def Obligations.OnlyTheseInstructionsWriteThePeriod : Prop :=
  ∀ (i : Instr) (s t : State), exec i s = .next t → t.block.period ≠ s.block.period →
    i = .applyCw ∨ i = .applyCcw ∨ (∃ v, i = .setp v) ∨ i = .reset ∨
      (i.isEdge = true ∧ ∃ d, t.history = .detent (some d) :: s.history)

/-- R54: HIST and ACC are read and written only by EDGE (and its transition codes) and RESET: any other instruction does
the same whatever they hold, and leaves them. -/
def Obligations.HistAndAccArePrivate : Prop :=
  ∀ (i : Instr) (s t : State) (h : Sample) (a : Acc), i.isEdge = false → i ≠ .reset → exec i s = .next t →
    t.block.hist = s.block.hist ∧ t.block.acc = s.block.acc ∧
    exec i { s with block := { s.block with hist := h, acc := a } } =
      .next { t with block := { t.block with hist := h, acc := a } }

/-- R33, the external columns: no instruction changes the lines or what is delivered next; the indications change only
under EDGE, the blinker only under TICK, which changes no register; at most one value is returned. -/
def Obligations.ExternalStateOwnership : Prop :=
  ∀ (i : Instr) (s t : State), exec i s = .next t →
    t.env.lineA = s.env.lineA ∧ t.env.lineB = s.env.lineB ∧ t.input = s.input ∧
    (i.isEdge = false → t.env.pendA = s.env.pendA ∧ t.env.pendB = s.env.pendB) ∧
    (i ≠ .tick → t.env.tickCnt = s.env.tickCnt ∧ t.env.out = s.env.out) ∧
    (i = .tick → t.block = s.block) ∧
    (i ≠ .reset → t.booted = s.booted) ∧
    (t.history = s.history ∨ ∃ r, t.history = r :: s.history)

/-- R55: in the closed reference system PERIOD changes only by RESET and by a detent inside the handler's EDGE. -/
def Obligations.ClosedSystemHasOneWriterPath : Prop :=
  ∀ (s t : State) (x : Input) (rest : List Input), s.input = x :: rest → x.closedSystem = true →
    step s = .next t → t.block.period ≠ s.block.period →
    x = .word (encode .reset) ∨ (x = .handler ∧ ∃ d, t.history = .detent (some d) :: s.history)

/-- R48: a read of PERIOD returns the value left by the latest write before it: what a step records as read is PERIOD as
the step found it. -/
def Obligations.ReadsReturnTheCurrentPeriod : Prop :=
  ∀ s t : State, step s = .next t →
    t.history = s.history ∨
    ∃ r, t.history = r :: s.history ∧ ∀ p, (r = .period p ∨ r = .tickRead p) → p = s.block.period

/-- R47 (the recording of what is read is log entry 11): along any run, every value a GETP or TICK reads is the value PERIOD held, whole, at some point of the run; from
a legal state it is inside the bounds. -/
def Obligations.NoTornRead : Prop :=
  ∀ (n : Nat) (s t : State), run n s = .next t →
    ∃ new, t.history = new ++ s.history ∧
      ∀ p, (.period p ∈ new ∨ .tickRead p ∈ new) →
        (∃ k u, k ≤ n ∧ run k s = .next u ∧ u.block.period = p) ∧
        (s.Inv reference → 10 ≤ p.toNat ∧ p.toNat ≤ 3000)

/-- R208, V32: a TICK and an EDGE that are ready together leave the same block in either order; the TICK reads PERIOD
before or after the EDGE's update. -/
def Obligations.TickAndEdgeCommuteOnTheBlock : Prop :=
  ∀ (s : State) (smp : Sample), s.Inv reference →
    ∃ e t u : State, exec (.edge smp) s = .next e ∧
      andThen (exec .tick s) (exec (.edge smp)) = .next t ∧ andThen (exec (.edge smp) s) (exec .tick) = .next u ∧
      t.block = e.block ∧ u.block = e.block ∧
      (∃ d, t.history = .detent d :: .tickRead s.block.period :: s.history) ∧
      (∃ d, u.history = .tickRead e.block.period :: .detent d :: s.history)

/-- R72, R73, R252: a script that passes the check runs to its end from any legal booted state, one step an event, and
leaves HIST at the sample its last EDGE gave. -/
def Obligations.WellFormedScriptsRunToTheEnd : Prop :=
  ∀ (sc : Script) (s : State), s.booted = true → s.Inv reference → sc.wf s.block.hist = true →
    ∃ t, run (expand sc).length (s.loadScript sc) = .next t ∧ t.Inv reference ∧
      t.input = s.input ∧ t.block.hist = histAfterAll s.block.hist (expand sc)
end

