-- ==== Sys2Proof/Laws/Decode.lean ====
section
/-!
SUPPORT. The fields of an event word built from its fields, and what the fetch does with each delivery.
-/

namespace Sys2Proof

@[simp] theorem opField_eventBits (op : BitVec 4) (arg : BitVec 32) : opField (eventBits op arg) = op := by
  apply BitVec.eq_of_getLsbD_eq
  intro i hi
  simp only [opField, eventBits, BitVec.getLsbD_extractLsb', BitVec.getLsbD_append]
  simp [hi]

@[simp] theorem argField_eventBits (op : BitVec 4) (arg : BitVec 32) : argField (eventBits op arg) = arg := by
  apply BitVec.eq_of_getLsbD_eq
  intro i hi
  simp only [argField, eventBits, BitVec.getLsbD_extractLsb', BitVec.getLsbD_append]
  simp [hi]

/-- An event word is its two fields. -/
theorem eventBits_fields (w : EventBits) : eventBits (opField w) (argField w) = w := by
  apply BitVec.eq_of_getLsbD_eq
  intro i hi
  simp only [eventBits, opField, argField, BitVec.getLsbD_append, BitVec.getLsbD_extractLsb']
  split
  · simp_all
  · have : i - 32 < 4 := by omega
    have h2 : 32 + (i - 32) = i := by omega
    simp [this, h2]

@[simp] theorem sampleField_zeros : ∀ s : Sample, sampleField (0#30 ++ s) = s := by
  decide

@[simp] theorem edgeZeroField_zeros : ∀ s : Sample, edgeZeroField (0#30 ++ s) = 0#30 := by
  decide

/-- An argument is its zero field and its sample. -/
theorem edgeArg_fields (arg : BitVec 32) : edgeZeroField arg ++ sampleField arg = arg := by
  apply BitVec.eq_of_getLsbD_eq
  intro i hi
  simp only [edgeZeroField, sampleField, BitVec.getLsbD_append, BitVec.getLsbD_extractLsb']
  split
  · simp_all
  · have : i - 2 < 30 := by omega
    have h2 : 2 + (i - 2) = i := by omega
    simp [this, h2]

namespace Machine

@[simp] theorem fetch_nil (s : State) (h : s.input = []) : fetch s = .move s := by
  simp [fetch, h]

theorem fetch_word {s : State} {w : EventWord} {rest : List Input} (h : s.input = .word w :: rest) :
    fetch s = acceptWord w { s with input := rest } := by
  simp [fetch, h]

theorem fetch_line {s : State} {a b : Bool} {rest : List Input} (h : s.input = .line a b :: rest) :
    fetch s = .move (lineMove a b { s with input := rest }) := by
  simp [fetch, h]

theorem fetch_handler {s : State} {rest : List Input} (h : s.input = .handler :: rest) :
    fetch s = acceptHandler { s with input := rest } := by
  simp [fetch, h]

theorem fetch_envReset {s : State} {a b : Bool} {rest : List Input} (h : s.input = .envReset a b :: rest) :
    fetch s = .move (envReset a b { s with input := rest }) := by
  simp [fetch, h]

/-- A word that decodes, is allowed and whose index is formed runs. -/
theorem acceptWord_run {w : EventWord} {s : State} {i : Instr} (hd : decode w = .ok i)
    (hb : s.booted = true ∨ i = .reset) (hf : indexFormed w s = true) : acceptWord w s = .run i s := by
  rcases hb with hb | rfl <;> simp [acceptWord, *]

end Machine
end Sys2Proof
end

