-- ==== Sys2Proof/Laws/State.lean ====
section
/-!
SUPPORT. One lemma per field per update, each true by rfl, so that no later proof unfolds a record update.
-/

namespace Sys2Proof.Machine

@[simp] theorem State.setHist_hist (s : State) (v : Sample) : (s.setHist v).block.hist = v := rfl
@[simp] theorem State.setHist_acc (s : State) (v : Sample) : (s.setHist v).block.acc = s.block.acc := rfl
@[simp] theorem State.setHist_period (s : State) (v : Sample) : (s.setHist v).block.period = s.block.period := rfl
@[simp] theorem State.setHist_env (s : State) (v : Sample) : (s.setHist v).env = s.env := rfl
@[simp] theorem State.setHist_booted (s : State) (v : Sample) : (s.setHist v).booted = s.booted := rfl
@[simp] theorem State.setHist_input (s : State) (v : Sample) : (s.setHist v).input = s.input := rfl
@[simp] theorem State.setHist_history (s : State) (v : Sample) : (s.setHist v).history = s.history := rfl

@[simp] theorem State.setAcc_hist (s : State) (v : Int) : (s.setAcc v).block.hist = s.block.hist := rfl
@[simp] theorem State.setAcc_acc (s : State) (v : Int) : (s.setAcc v).block.acc = BitVec.ofInt 4 v := rfl
@[simp] theorem State.setAcc_period (s : State) (v : Int) : (s.setAcc v).block.period = s.block.period := rfl
@[simp] theorem State.setAcc_env (s : State) (v : Int) : (s.setAcc v).env = s.env := rfl
@[simp] theorem State.setAcc_booted (s : State) (v : Int) : (s.setAcc v).booted = s.booted := rfl
@[simp] theorem State.setAcc_input (s : State) (v : Int) : (s.setAcc v).input = s.input := rfl
@[simp] theorem State.setAcc_history (s : State) (v : Int) : (s.setAcc v).history = s.history := rfl

@[simp] theorem State.setPeriod_hist (s : State) (v : Nat) : (s.setPeriod v).block.hist = s.block.hist := rfl
@[simp] theorem State.setPeriod_acc (s : State) (v : Nat) : (s.setPeriod v).block.acc = s.block.acc := rfl
@[simp] theorem State.setPeriod_period (s : State) (v : Nat) : (s.setPeriod v).block.period = BitVec.ofNat 32 v := rfl
@[simp] theorem State.setPeriod_env (s : State) (v : Nat) : (s.setPeriod v).env = s.env := rfl
@[simp] theorem State.setPeriod_booted (s : State) (v : Nat) : (s.setPeriod v).booted = s.booted := rfl
@[simp] theorem State.setPeriod_input (s : State) (v : Nat) : (s.setPeriod v).input = s.input := rfl
@[simp] theorem State.setPeriod_history (s : State) (v : Nat) : (s.setPeriod v).history = s.history := rfl

@[simp] theorem State.report_block (s : State) (r : Report) : (s.report r).block = s.block := rfl
@[simp] theorem State.report_env (s : State) (r : Report) : (s.report r).env = s.env := rfl
@[simp] theorem State.report_booted (s : State) (r : Report) : (s.report r).booted = s.booted := rfl
@[simp] theorem State.report_input (s : State) (r : Report) : (s.report r).input = s.input := rfl
@[simp] theorem State.report_history (s : State) (r : Report) : (s.report r).history = r :: s.history := rfl

@[simp] theorem ackEdges_block (s : State) : (ackEdges s).block = s.block := rfl
@[simp] theorem ackEdges_lineA (s : State) : (ackEdges s).env.lineA = s.env.lineA := rfl
@[simp] theorem ackEdges_lineB (s : State) : (ackEdges s).env.lineB = s.env.lineB := rfl
@[simp] theorem ackEdges_pendA (s : State) : (ackEdges s).env.pendA = false := rfl
@[simp] theorem ackEdges_pendB (s : State) : (ackEdges s).env.pendB = false := rfl
@[simp] theorem ackEdges_tickCnt (s : State) : (ackEdges s).env.tickCnt = s.env.tickCnt := rfl
@[simp] theorem ackEdges_out (s : State) : (ackEdges s).env.out = s.env.out := rfl
@[simp] theorem ackEdges_booted (s : State) : (ackEdges s).booted = s.booted := rfl
@[simp] theorem ackEdges_input (s : State) : (ackEdges s).input = s.input := rfl
@[simp] theorem ackEdges_history (s : State) : (ackEdges s).history = s.history := rfl

@[simp] theorem lineMove_block (a b : Bool) (s : State) : (lineMove a b s).block = s.block := rfl
@[simp] theorem lineMove_lineA (a b : Bool) (s : State) : (lineMove a b s).env.lineA = a := rfl
@[simp] theorem lineMove_lineB (a b : Bool) (s : State) : (lineMove a b s).env.lineB = b := rfl
@[simp] theorem lineMove_pendA (a b : Bool) (s : State) : (lineMove a b s).env.pendA = (s.env.pendA || a != s.env.lineA) := rfl
@[simp] theorem lineMove_pendB (a b : Bool) (s : State) : (lineMove a b s).env.pendB = (s.env.pendB || b != s.env.lineB) := rfl
@[simp] theorem lineMove_tickCnt (a b : Bool) (s : State) : (lineMove a b s).env.tickCnt = s.env.tickCnt := rfl
@[simp] theorem lineMove_out (a b : Bool) (s : State) : (lineMove a b s).env.out = s.env.out := rfl
@[simp] theorem lineMove_booted (a b : Bool) (s : State) : (lineMove a b s).booted = s.booted := rfl
@[simp] theorem lineMove_input (a b : Bool) (s : State) : (lineMove a b s).input = s.input := rfl
@[simp] theorem lineMove_history (a b : Bool) (s : State) : (lineMove a b s).history = s.history := rfl

@[simp] theorem envReset_block (a b : Bool) (s : State) : (envReset a b s).block = s.block := rfl
@[simp] theorem envReset_lineA (a b : Bool) (s : State) : (envReset a b s).env.lineA = a := rfl
@[simp] theorem envReset_lineB (a b : Bool) (s : State) : (envReset a b s).env.lineB = b := rfl
@[simp] theorem envReset_pendA (a b : Bool) (s : State) : (envReset a b s).env.pendA = false := rfl
@[simp] theorem envReset_pendB (a b : Bool) (s : State) : (envReset a b s).env.pendB = false := rfl
@[simp] theorem envReset_tickCnt (a b : Bool) (s : State) : (envReset a b s).env.tickCnt = 0 := rfl
@[simp] theorem envReset_out (a b : Bool) (s : State) : (envReset a b s).env.out = false := rfl
@[simp] theorem envReset_booted (a b : Bool) (s : State) : (envReset a b s).booted = s.booted := rfl
@[simp] theorem envReset_input (a b : Bool) (s : State) : (envReset a b s).input = s.input := rfl
@[simp] theorem envReset_history (a b : Bool) (s : State) : (envReset a b s).history = s.history := rfl

@[simp] theorem State.afterEdge_hist (s : State) (x : Sample) (a : Acc) (p : Ticks) (d : Option Detent) : (s.afterEdge x a p d).block.hist = x := rfl
@[simp] theorem State.afterEdge_acc (s : State) (x : Sample) (a : Acc) (p : Ticks) (d : Option Detent) : (s.afterEdge x a p d).block.acc = a := rfl
@[simp] theorem State.afterEdge_period (s : State) (x : Sample) (a : Acc) (p : Ticks) (d : Option Detent) : (s.afterEdge x a p d).block.period = p := rfl
@[simp] theorem State.afterEdge_lineA (s : State) (x : Sample) (a : Acc) (p : Ticks) (d : Option Detent) : (s.afterEdge x a p d).env.lineA = s.env.lineA := rfl
@[simp] theorem State.afterEdge_lineB (s : State) (x : Sample) (a : Acc) (p : Ticks) (d : Option Detent) : (s.afterEdge x a p d).env.lineB = s.env.lineB := rfl
@[simp] theorem State.afterEdge_pendA (s : State) (x : Sample) (a : Acc) (p : Ticks) (d : Option Detent) : (s.afterEdge x a p d).env.pendA = false := rfl
@[simp] theorem State.afterEdge_pendB (s : State) (x : Sample) (a : Acc) (p : Ticks) (d : Option Detent) : (s.afterEdge x a p d).env.pendB = false := rfl
@[simp] theorem State.afterEdge_tickCnt (s : State) (x : Sample) (a : Acc) (p : Ticks) (d : Option Detent) : (s.afterEdge x a p d).env.tickCnt = s.env.tickCnt := rfl
@[simp] theorem State.afterEdge_out (s : State) (x : Sample) (a : Acc) (p : Ticks) (d : Option Detent) : (s.afterEdge x a p d).env.out = s.env.out := rfl
@[simp] theorem State.afterEdge_booted (s : State) (x : Sample) (a : Acc) (p : Ticks) (d : Option Detent) : (s.afterEdge x a p d).booted = s.booted := rfl
@[simp] theorem State.afterEdge_input (s : State) (x : Sample) (a : Acc) (p : Ticks) (d : Option Detent) : (s.afterEdge x a p d).input = s.input := rfl
@[simp] theorem State.afterEdge_history (s : State) (x : Sample) (a : Acc) (p : Ticks) (d : Option Detent) : (s.afterEdge x a p d).history = .detent d :: s.history := rfl

end Sys2Proof.Machine
end

