-- ==== Sys2Proof/Laws/Ops.lean ====
section
/-!
SUPPORT. What each shared operation can do, said once.
-/

namespace Sys2Proof.Machine

@[simp] theorem andThen_next (s : State) (f : State → Result) : andThen (.next s) f = f s := rfl
@[simp] theorem andThen_fault (e : Fault) (f : State → Result) : andThen (.fault e) f = .fault e := rfl
@[simp] theorem andThen_refused (e : Refusal) (f : State → Result) : andThen (.refused e) f = .refused e := rfl

@[simp] theorem accLegal_iff (c : Config) (a : Acc) :
    accLegal c a = true ↔ -(c.threshold : Int) < a.toInt ∧ a.toInt < c.threshold := by
  simp [accLegal]

@[simp] theorem periodLegal_iff (c : Config) (p : Ticks) :
    periodLegal c p = true ↔ c.floor ≤ p.toNat ∧ p.toNat ≤ c.ceiling := by
  simp [periodLegal]

/-- Every entry of the StepTable is -1, 0 or +1. -/
theorem memRead_range : ∀ ti : Index, memRead ti = -1 ∨ memRead ti = 0 ∨ memRead ti = 1 := by
  decide

theorem memRead_bounds (ti : Index) : -1 ≤ memRead ti ∧ memRead ti ≤ 1 := by
  rcases memRead_range ti with h | h | h <;> omega

@[simp] theorem currentSample_index : ∀ h s : Sample, currentSample (index h s) = s := by
  decide

@[simp] theorem previousSample_index : ∀ h s : Sample, previousSample (index h s) = h := by
  decide

@[simp] theorem sampleOf_levels : ∀ s : Sample, sampleOf (s.getLsbD 0) (s.getLsbD 1) = s := by
  decide

theorem detect_positive (c : Config) : detect c c.threshold = (0, some .cw) := by
  simp [detect]

theorem detect_negative (c : Config) (h : 1 ≤ c.threshold) : detect c (-c.threshold) = (0, some .ccw) := by
  have : ¬ (-(c.threshold : Int) = c.threshold) := by omega
  simp [detect, this]

theorem detect_none (c : Config) (a : Int) (hp : a ≠ c.threshold) (hn : a ≠ -(c.threshold : Int)) :
    detect c a = (a, none) := by
  simp [detect, hp, hn]

theorem clamp_bounds (c : Config) (v : Nat) (h : c.floor ≤ c.ceiling) :
    c.floor ≤ clamp c v ∧ clamp c v ≤ c.ceiling := by
  simp only [clamp]; omega

/-- Everything a detent's update of PERIOD can do. -/
theorem applyDetent_eq (c : Config) (d : Detent) (s : State) :
    applyDetent c d s =
      if periodLegal c s.block.period then .next (s.setPeriod (adjustedPeriod c d s.block.period.toNat))
      else .fault .periodOutOfRange := rfl

/-- Everything a transition can do: it stops on an ACC the invariant excludes; without a detent it stores the sum; with
one it stores 0 and adjusts PERIOD, or stops on a PERIOD the invariant excludes. -/
theorem transition_eq (c : Config) (ti : Index) (s : State) :
    transition c ti s =
      if accLegal c s.block.acc then
        match detect c (s.block.acc.toInt + memRead ti) with
        | (v, none) => .next (s.afterEdge (currentSample ti) (BitVec.ofInt 4 v) s.block.period none)
        | (v, some d) =>
          if periodLegal c s.block.period then
            .next (s.afterEdge (currentSample ti) (BitVec.ofInt 4 v)
              (BitVec.ofNat 32 (adjustedPeriod c d s.block.period.toNat)) (some d))
          else .fault .periodOutOfRange
      else .fault .accOutOfRange := by
  unfold transition
  split
  · rcases hd : detect c (s.block.acc.toInt + memRead ti) with ⟨v, _ | d⟩
    · simp only [hd]; rfl
    · simp only [hd, deliverDetent, applyDetent_eq]
      by_cases hp : periodLegal c s.block.period = true
      · have hq : periodLegal c ((s.setHist (currentSample ti)).setAcc v).block.period = true := hp
        rw [if_pos hp, if_pos hq]; rfl
      · have hq : ¬ periodLegal c ((s.setHist (currentSample ti)).setAcc v).block.period = true := hp
        rw [if_neg hp, if_neg hq]; rfl
  · rfl

/-- A transition that completes: the state it leaves. -/
theorem transition_next {c : Config} {ti : Index} {s t : State} (h : transition c ti s = .next t) :
    accLegal c s.block.acc = true ∧
    ((∃ v, detect c (s.block.acc.toInt + memRead ti) = (v, none) ∧
        t = s.afterEdge (currentSample ti) (BitVec.ofInt 4 v) s.block.period none) ∨
     (∃ v d, detect c (s.block.acc.toInt + memRead ti) = (v, some d) ∧ periodLegal c s.block.period = true ∧
        t = s.afterEdge (currentSample ti) (BitVec.ofInt 4 v)
          (BitVec.ofNat 32 (adjustedPeriod c d s.block.period.toNat)) (some d))) := by
  rw [transition_eq] at h
  split at h
  · next hacc =>
    refine ⟨hacc, ?_⟩
    rcases hd : detect c (s.block.acc.toInt + memRead ti) with ⟨v, _ | d⟩ <;> simp only [hd] at h
    · exact .inl ⟨v, rfl, by simpa using h.symm⟩
    · split at h
      · next hp => exact .inr ⟨v, d, rfl, hp, by simpa using h.symm⟩
      · cases h
  · cases h

/-- A tick that completes: the state it leaves. -/
theorem blink_next {c : Config} {s t : State} (h : blink c s = .next t) :
    s.block.period ≠ 0 ∧ periodLegal c s.block.period = true ∧
    t = { s with
      env := { s.env with
        tickCnt := BitVec.ofNat 32 (nextCount s.env.tickCnt.toNat s.block.period.toNat),
        out := if nextCount s.env.tickCnt.toNat s.block.period.toNat = 0 then !s.env.out else s.env.out },
      history := .tickRead s.block.period :: s.history } := by
  unfold blink at h
  split at h
  · cases h
  · next hz =>
    split at h
    · next hp => exact ⟨hz, hp, by cases h; rfl⟩
    · cases h

/-- A GETP that completes: the state it leaves. -/
theorem getPeriod_next {c : Config} {s t : State} (h : getPeriod c s = .next t) :
    periodLegal c s.block.period = true ∧ t = s.report (.period s.block.period) := by
  unfold getPeriod at h
  split at h
  · next hp => exact ⟨hp, by cases h; rfl⟩
  · cases h

/-- A rate update that completes: the state it leaves. -/
theorem applyDetent_next {c : Config} {d : Detent} {s t : State} (h : applyDetent c d s = .next t) :
    periodLegal c s.block.period = true ∧
    t = s.setPeriod (adjustedPeriod c d s.block.period.toNat) := by
  rw [applyDetent_eq] at h
  split at h
  · next hp => exact ⟨hp, by cases h; rfl⟩
  · cases h

end Sys2Proof.Machine
end

