-- ==== Sys2Proof/Laws/Exec.lean ====
section
/-!
SUPPORT. What `exec` and `fetch` can do, said once: the shared operation behind an EDGE or a transition code, the inversion
of a completed instruction, and what a fetch keeps.
-/

namespace Sys2Proof.Machine

@[simp] theorem edgeIndex_edge (smp : Sample) (s : State) : edgeIndex (.edge smp) s = some (index s.block.hist smp) := rfl

/-- EDGE and the transition codes, and no other instruction, look up an index. -/
theorem edgeIndex_isSome (i : Instr) (s : State) : (edgeIndex i s).isSome = i.isEdge := by
  cases i <;> rfl

/-- An instruction that looks up an index is the transition of that index. -/
theorem exec_of_edgeIndex {i : Instr} {s : State} {ti : Index} (h : edgeIndex i s = some ti) :
    exec i s = transition reference ti s := by
  cases i <;> cases h <;> rfl

/-- An instruction of the encoder handler is the transition of some index. -/
theorem exec_of_isEdge {i : Instr} (h : i.isEdge = true) (s : State) :
    ∃ ti, edgeIndex i s = some ti ∧ exec i s = transition reference ti s := by
  rw [← edgeIndex_isSome i s] at h
  obtain ⟨ti, hti⟩ := Option.isSome_iff_exists.mp h
  exact ⟨ti, hti, exec_of_edgeIndex hti⟩

/-- Everything an instruction that completes can have done. -/
theorem exec_cases {i : Instr} {s t : State} (h : exec i s = .next t) :
    (i.isEdge = true ∧ ∃ ti, edgeIndex i s = some ti ∧ transition reference ti s = .next t) ∨
    (i = .nop ∧ t = s) ∨
    (i = .getp ∧ periodLegal reference s.block.period = true ∧ t = s.report (.period s.block.period)) ∨
    (∃ v : Ticks, i = .setp v ∧ t = s.setPeriod (clamp reference v.toNat)) ∨
    (∃ d, i = (match d with | .cw => .applyCw | .ccw => .applyCcw) ∧ periodLegal reference s.block.period = true ∧
      t = s.setPeriod (adjustedPeriod reference d s.block.period.toNat)) ∨
    (i = .tick ∧ blink reference s = .next t) ∨
    (i = .reset ∧ t = { s with block := { hist := 0, acc := 0, period := 1000 }, booted := true }) := by
  by_cases hi : i.isEdge = true
  · obtain ⟨ti, hti, e⟩ := exec_of_isEdge hi s
    exact .inl ⟨hi, ti, hti, e ▸ h⟩
  · right
    cases i <;> try exact absurd rfl hi
    case nop => cases h; exact .inl ⟨rfl, rfl⟩
    case getp => exact .inr (.inl ⟨rfl, getPeriod_next h⟩)
    case setp v => cases h; exact .inr (.inr (.inl ⟨v, rfl, rfl⟩))
    case applyCw => exact .inr (.inr (.inr (.inl ⟨.cw, rfl, applyDetent_next h⟩)))
    case applyCcw => exact .inr (.inr (.inr (.inl ⟨.ccw, rfl, applyDetent_next h⟩)))
    case tick => exact .inr (.inr (.inr (.inr (.inl ⟨rfl, h⟩))))
    case reset => cases h; exact .inr (.inr (.inr (.inr (.inr ⟨rfl, rfl⟩))))

/-- At a configuration that R7 does not admit no instruction runs. -/
theorem execWith_unadmitted {c : Config} (h : c.admitted = false) (i : Instr) (s : State) :
    execWith c i s = .refused .configNotAdmitted := by
  simp [execWith, h]

/-- Nor does any step. -/
theorem stepWith_unadmitted {c : Config} (h : c.admitted = false) (s : State) :
    stepWith c s = .refused .configNotAdmitted := by
  simp [stepWith, h]

/-- At an admitted configuration a step is what its fetch asks for. -/
theorem stepWith_admitted {c : Config} (h : c.admitted = true) (s : State) :
    stepWith c s =
      match fetch s with
      | .run i t => execWith c i t
      | .move t => .next t
      | .refuse r => .refused r :=
  if_pos h

/-- A fetch that runs an instruction takes the delivery and changes nothing else. -/
theorem fetch_run {s t : State} {i : Instr} (h : fetch s = .run i t) :
    ∃ x rest, s.input = x :: rest ∧ t = { s with input := rest } := by
  unfold fetch acceptWord acceptHandler at h
  split at h
  · cases h
  · next w rest hw =>
    split at h
    · cases h
    · split at h
      · cases h
      · split at h
        · cases h; exact ⟨_, _, hw, rfl⟩
        · cases h
  · cases h
  · next rest hw =>
    split at h
    · cases h
    · split at h
      · cases h; exact ⟨_, _, hw, rfl⟩
      · cases h
  · cases h

/-- A fetch that is a move of the environment, or waits, keeps the block, the flag and the history; TICKCNT stays or is
cleared. -/
theorem fetch_move {s t : State} (h : fetch s = .move t) :
    t.block = s.block ∧ t.booted = s.booted ∧ t.history = s.history ∧
    (t.env.tickCnt = s.env.tickCnt ∨ t.env.tickCnt = 0) := by
  unfold fetch acceptWord acceptHandler at h
  split at h
  · cases h; exact ⟨rfl, rfl, rfl, .inl rfl⟩
  · split at h
    · cases h
    · split at h
      · cases h
      · split at h <;> cases h
  · cases h; exact ⟨rfl, rfl, rfl, .inl rfl⟩
  · split at h
    · cases h
    · split at h
      · cases h
      · cases h; exact ⟨rfl, rfl, rfl, .inl rfl⟩
  · cases h; exact ⟨rfl, rfl, rfl, .inr rfl⟩

end Sys2Proof.Machine
end

