-- ==== Sys2Proof/Laws/PerInstr.lean ====
section
/-!
SUPPORT. Family TableRow, one lemma per instruction: the word the encoder gives an instruction is covered by a row of
the opcode table that carries the instruction's mnemonic (30_encoding.md R75).
-/

namespace Sys2Proof.Laws.TableRow

/-- The instruction's word is a word of its own row of the opcode table. -/
def Statement (i : Instr) : Prop :=
  ∃ r, r ∈ opcodeTable ∧ r.mnemonic = i.mnemonic ∧ r.covers (encode i) = true

theorem t00 : Statement .t00 := ⟨⟨"T00", .ti4, 0, 0xF⟩, by decide⟩
theorem t01 : Statement .t01 := ⟨⟨"T01", .ti4, 1, 0xF⟩, by decide⟩
theorem t02 : Statement .t02 := ⟨⟨"T02", .ti4, 2, 0xF⟩, by decide⟩
theorem t03 : Statement .t03 := ⟨⟨"T03", .ti4, 3, 0xF⟩, by decide⟩
theorem t04 : Statement .t04 := ⟨⟨"T04", .ti4, 4, 0xF⟩, by decide⟩
theorem t05 : Statement .t05 := ⟨⟨"T05", .ti4, 5, 0xF⟩, by decide⟩
theorem t06 : Statement .t06 := ⟨⟨"T06", .ti4, 6, 0xF⟩, by decide⟩
theorem t07 : Statement .t07 := ⟨⟨"T07", .ti4, 7, 0xF⟩, by decide⟩
theorem t08 : Statement .t08 := ⟨⟨"T08", .ti4, 8, 0xF⟩, by decide⟩
theorem t09 : Statement .t09 := ⟨⟨"T09", .ti4, 9, 0xF⟩, by decide⟩
theorem t10 : Statement .t10 := ⟨⟨"T10", .ti4, 10, 0xF⟩, by decide⟩
theorem t11 : Statement .t11 := ⟨⟨"T11", .ti4, 11, 0xF⟩, by decide⟩
theorem t12 : Statement .t12 := ⟨⟨"T12", .ti4, 12, 0xF⟩, by decide⟩
theorem t13 : Statement .t13 := ⟨⟨"T13", .ti4, 13, 0xF⟩, by decide⟩
theorem t14 : Statement .t14 := ⟨⟨"T14", .ti4, 14, 0xF⟩, by decide⟩
theorem t15 : Statement .t15 := ⟨⟨"T15", .ti4, 15, 0xF⟩, by decide⟩
theorem nop : Statement .nop := ⟨⟨"NOP", .ev36, 0x000000000, 0xFFFFFFFFF⟩, by decide⟩
theorem getp : Statement .getp := ⟨⟨"GETP", .ev36, 0x200000000, 0xFFFFFFFFF⟩, by decide⟩
theorem applyCw : Statement .applyCw := ⟨⟨"APPLY_CW", .ev36, 0x400000000, 0xFFFFFFFFF⟩, by decide⟩
theorem applyCcw : Statement .applyCcw := ⟨⟨"APPLY_CCW", .ev36, 0x500000000, 0xFFFFFFFFF⟩, by decide⟩
theorem tick : Statement .tick := ⟨⟨"TICK", .ev36, 0x600000000, 0xFFFFFFFFF⟩, by decide⟩
theorem reset : Statement .reset := ⟨⟨"RESET", .ev36, 0xF00000000, 0xFFFFFFFFF⟩, by decide⟩

theorem edge (s : Sample) : Statement (.edge s) :=
  ⟨⟨"EDGE", .ev36, 0x100000000, 0xFFFFFFFFC⟩, by decide, rfl, by revert s; decide⟩

theorem setp (v : Ticks) : Statement (.setp v) := by
  refine ⟨⟨"SETP", .ev36, 0x300000000, 0xF00000000⟩, by decide, rfl, ?_⟩
  have h : (eventBits 0x3 v &&& 0xF00000000#36) = 0x300000000#36 := by
    apply BitVec.eq_of_getLsbD_eq
    intro i hi
    rw [BitVec.getLsbD_and, eventBits, BitVec.getLsbD_append]
    split
    · next h => interval_cases i <;> simp
    · next h => interval_cases i <;> rfl
  have h2 := congrArg BitVec.toNat h
  simpa [OpRow.covers, encode] using h2

end Sys2Proof.Laws.TableRow
end

