-- ==== Sys2Proof/Laws/Run.lean ====
section
/-!
SUPPORT. Runs of the machine, one step at either end; and the step on each delivery.
-/

namespace Sys2Proof.Machine

@[simp] theorem run_zero (s : State) : run 0 s = .next s := rfl

/-- A run whose first step is known. -/
theorem run_succ {k : Nat} {s t : State} (h : step s = .next t) : run (k + 1) s = run k t := by
  simp [run, h]

/-- A run is a shorter run and then the rest. -/
theorem run_add (k m : Nat) (s : State) : run (k + m) s = andThen (run k s) (run m) := by
  induction k generalizing s with
  | zero => simp
  | succ k ih =>
    rw [Nat.succ_add]
    simp only [run]
    cases step s with
    | next t => exact ih t
    | fault e => rfl
    | refused e => rfl

/-- A run whose last step is known. -/
theorem run_snoc {k : Nat} {s t : State} (h : run k s = .next t) : run (k + 1) s = step t := by
  rw [run_add, h, andThen_next]
  simp only [run]
  cases step t <;> rfl

/-- The machine's run is the host's. -/
theorem run_eq_core_run (k : Nat) (s : State) : run k s = Host.Core.run core k s := by
  induction k generalizing s with
  | zero => rfl
  | succ k ih =>
    simp only [run, Host.Core.run]
    cases h : step s with
    | next t => rw [show core.step s = .next t from h]; exact ih t
    | fault e => rw [show core.step s = .fault e from h]; rfl
    | refused e => rw [show core.step s = .refused e from h]; rfl

/-- The step on a word that decodes, is allowed and whose index is formed. -/
theorem step_word {s : State} {w : EventWord} {i : Instr} {rest : List Input} (h : s.input = .word w :: rest)
    (hd : decode w = .ok i) (hb : s.booted = true ∨ i = .reset)
    (hf : indexFormed w { s with input := rest } = true) : step s = exec i { s with input := rest } := by
  simp only [step, fetch_word h,
    acceptWord_run (s := { s with input := rest }) hd hb hf]

theorem step_nil {s : State} (h : s.input = []) : step s = .next s := by
  simp [step, fetch, h]

theorem step_line {s : State} {a b : Bool} {rest : List Input} (h : s.input = .line a b :: rest) :
    step s = .next (lineMove a b { s with input := rest }) := by
  simp only [step, fetch_line h]

theorem step_envReset {s : State} {a b : Bool} {rest : List Input} (h : s.input = .envReset a b :: rest) :
    step s = .next (envReset a b { s with input := rest }) := by
  simp only [step, fetch_envReset h]

end Sys2Proof.Machine
end

