-- ==== Sys2Proof/Tests/Slice0.lean ====
section
/-!
SUPPORT. The model's own tests, their expected results from spec/ (the rule or the vector V<n> of 95_test_vectors.md is
named at each), the smoke tests of the checks, and for every statement with hypotheses a state and operands that meet
all of them together.
-/

namespace Sys2Proof.Tests

open Sys2Proof Sys2Proof.Machine

/-! ## Helpers -/

/-- A legal machine with this block, both indications pending, and these deliveries. -/
def machine (h : Sample) (a : Acc) (p : Ticks) (l : List Input) : State :=
  { State.reset with
    block := { hist := h, acc := a, period := p }
    env := { lineA := true, lineB := false, pendA := true, pendB := true, tickCnt := 5, out := false }
    input := l }

/-- The block and the returned values after one step on one delivered word. -/
def cell (w : EventWord) (h : Sample) (a : Acc) (p : Ticks) : Option (Block × List Report) :=
  match step (machine h a p [.word w]) with
  | .next t => some (t.block, t.history)
  | .fault _ => none
  | .refused _ => none

/-- TICKCNT, OUT and whether the block is as before, after one TICK (the columns of V27). -/
def tickCell (cnt : BitVec 32) (p : Ticks) (out : Bool) : Option (BitVec 32 × Bool × Bool) :=
  let s := machine 2 1 p [.word (.ev36 0x600000000)]
  match step { s with env := { s.env with tickCnt := cnt, out := out } } with
  | .next t => some (t.env.tickCnt, t.env.out, decide (t.block = s.block))
  | .fault _ => none
  | .refused _ => none

/-- The refusal of one step, if it is one. -/
def refusalOf (s : State) : Option Refusal :=
  match step s with
  | .next _ => none
  | .fault _ => none
  | .refused r => some r

/-- The instruction a word decodes to, if any. -/
def decoded (w : EventWord) : Option Instr := (decode w).toOption

/-- Another admitted configuration (R7): the largest THRESHOLD of 4 bits, FLOOR 20, CEILING 21. -/
def narrow : Config :=
  { threshold := 7, floor := 20, ceiling := 21, defaultPeriod := 20, rateDiv := 10, tickHz := 100, prio := .tick,
    setpRejects := true }

/-! ## Decoding: the words as R68, R69 and R71 spell them, V29 -/

theorem test_decode_t00 : decoded (.ti4 0b0000) = some .t00 := by decide
theorem test_decode_t01 : decoded (.ti4 0b0001) = some .t01 := by decide
theorem test_decode_t02 : decoded (.ti4 0b0010) = some .t02 := by decide
theorem test_decode_t03 : decoded (.ti4 0b0011) = some .t03 := by decide
theorem test_decode_t04 : decoded (.ti4 0b0100) = some .t04 := by decide
theorem test_decode_t05 : decoded (.ti4 0b0101) = some .t05 := by decide
theorem test_decode_t06 : decoded (.ti4 0b0110) = some .t06 := by decide
theorem test_decode_t07 : decoded (.ti4 0b0111) = some .t07 := by decide
theorem test_decode_t08 : decoded (.ti4 0b1000) = some .t08 := by decide
theorem test_decode_t09 : decoded (.ti4 0b1001) = some .t09 := by decide
theorem test_decode_t10 : decoded (.ti4 0b1010) = some .t10 := by decide
theorem test_decode_t11 : decoded (.ti4 0b1011) = some .t11 := by decide
theorem test_decode_t12 : decoded (.ti4 0b1100) = some .t12 := by decide
theorem test_decode_t13 : decoded (.ti4 0b1101) = some .t13 := by decide
theorem test_decode_t14 : decoded (.ti4 0b1110) = some .t14 := by decide
theorem test_decode_t15 : decoded (.ti4 0b1111) = some .t15 := by decide
theorem test_decode_nop : decoded (.ev36 0x000000000) = some .nop := by decide
theorem test_decode_edge_high_A : decoded (.ev36 0x100000001) = some (.edge 0b01) := by decide
theorem test_decode_edge_high_B : decoded (.ev36 0x100000002) = some (.edge 0b10) := by decide
theorem test_decode_getp : decoded (.ev36 0x200000000) = some .getp := by decide
theorem test_decode_setp_500 : decoded (.ev36 0x3000001F4) = some (.setp 500) := by decide
theorem test_decode_setp_top_bit : decoded (.ev36 0x380000000) = some (.setp 2147483648) := by decide
theorem test_decode_applyCw : decoded (.ev36 0x400000000) = some .applyCw := by decide
theorem test_decode_applyCcw : decoded (.ev36 0x500000000) = some .applyCcw := by decide
theorem test_decode_tick : decoded (.ev36 0x600000000) = some .tick := by decide
theorem test_decode_reset : decoded (.ev36 0xF00000000) = some .reset := by decide

/-- Bits numbered as the opcode table numbers them: 4 bits, in whole bytes 8; 36 bits, in whole bytes 40. -/
theorem test_decodeTableWord :
    decodeTableWord 8 0xB = some .t11 ∧ decodeTableWord 4 0xB = some .t11 ∧
    decodeTableWord 40 0x3000001F4 = some (.setp 500) ∧ decodeTableWord 36 0xF00000000 = some .reset ∧
    decodeTableWord 40 0x100000004 = none ∧ decodeTableWord 8 0x1B = none := by
  decide

/-! ## The checks refuse ill-formed terms -/

theorem test_wf_config_reference : reference.admitted = true := by decide
theorem test_wf_config_narrow : narrow.admitted = true := by decide
theorem test_wf_config_threshold_zero : ({ narrow with threshold := 0 } : Config).admitted = false := by decide
theorem test_wf_config_threshold_8 : ({ narrow with threshold := 8 } : Config).admitted = false := by decide
theorem test_wf_config_rateDiv : ({ narrow with rateDiv := 9 } : Config).admitted = false := by decide
theorem test_wf_config_floor_below_rateDiv : ({ narrow with floor := 9 } : Config).admitted = false := by decide
theorem test_wf_config_default_below_floor : ({ narrow with defaultPeriod := 19 } : Config).admitted = false := by decide
theorem test_wf_config_default_above_ceiling : ({ narrow with defaultPeriod := 22 } : Config).admitted = false := by decide
theorem test_wf_config_ceiling_overflows :
    ({ narrow with ceiling := 4294967295 } : Config).admitted = false := by decide
theorem test_wf_word_legal : EventWord.wf (.ev36 0x100000003) = true := by decide
theorem test_wf_word_reserved_op : EventWord.wf (.ev36 0x700000000) = false := by decide
theorem test_wf_word_edge_arg : EventWord.wf (.ev36 0x100000004) = false := by decide
theorem test_wf_word_nop_arg : EventWord.wf (.ev36 0x000000001) = false := by decide
theorem test_wf_word_malformed : EventWord.wf (.malformed 8 0x1B) = false := by decide
theorem test_wf_script_transition_code : Script.wf 0 (.event .t02 .done) = false := by decide
theorem test_wf_script_sequence_start : Script.wf 0 (.seqAB [(false, true), (true, true)] .done) = false := by decide
theorem test_wf_script_sequence_empty : Script.wf 0 (.seqBA [] .done) = false := by decide
theorem test_wf_script_in_body : Script.wf 0 (.rep 2 (.event .t02 .done) .done) = false := by decide

/-! ## One step of each transition code: the example of its rule (R96 to R111), and a firing cell of V13 -/

theorem test_t00 : cell (.ti4 0) 0 2 1000 = some (⟨0, 2, 1000⟩, [.detent none]) := by decide
theorem test_t01 : cell (.ti4 1) 0 0 1000 = some (⟨1, -1, 1000⟩, [.detent none]) := by decide
theorem test_t01_fires : cell (.ti4 1) 0 (-3) 1000 = some (⟨1, 0, 1100⟩, [.detent (some .ccw)]) := by decide
theorem test_t02 : cell (.ti4 2) 0 0 1000 = some (⟨2, 1, 1000⟩, [.detent none]) := by decide
theorem test_t02_fires : cell (.ti4 2) 0 3 1000 = some (⟨2, 0, 900⟩, [.detent (some .cw)]) := by decide
theorem test_t03 : cell (.ti4 3) 0 1 1000 = some (⟨3, 1, 1000⟩, [.detent none]) := by decide
theorem test_t04 : cell (.ti4 4) 1 (-3) 1000 = some (⟨0, -2, 1000⟩, [.detent none]) := by decide
theorem test_t04_fires : cell (.ti4 4) 1 3 1000 = some (⟨0, 0, 900⟩, [.detent (some .cw)]) := by decide
theorem test_t05 : cell (.ti4 5) 1 (-3) 1000 = some (⟨1, -3, 1000⟩, [.detent none]) := by decide
theorem test_t06 : cell (.ti4 6) 1 0 1000 = some (⟨2, 0, 1000⟩, [.detent none]) := by decide
theorem test_t07 : cell (.ti4 7) 1 (-1) 1000 = some (⟨3, -2, 1000⟩, [.detent none]) := by decide
theorem test_t07_fires : cell (.ti4 7) 1 (-3) 1000 = some (⟨3, 0, 1100⟩, [.detent (some .ccw)]) := by decide
theorem test_t08 : cell (.ti4 8) 2 3 1000 = some (⟨0, 2, 1000⟩, [.detent none]) := by decide
theorem test_t08_fires : cell (.ti4 8) 2 (-3) 1000 = some (⟨0, 0, 1100⟩, [.detent (some .ccw)]) := by decide
theorem test_t09 : cell (.ti4 9) 2 2 1000 = some (⟨1, 2, 1000⟩, [.detent none]) := by decide
theorem test_t10 : cell (.ti4 10) 2 1 1000 = some (⟨2, 1, 1000⟩, [.detent none]) := by decide
theorem test_t11 : cell (.ti4 11) 2 1 1000 = some (⟨3, 2, 1000⟩, [.detent none]) := by decide
theorem test_t11_fires : cell (.ti4 11) 2 3 1000 = some (⟨3, 0, 900⟩, [.detent (some .cw)]) := by decide
theorem test_t12 : cell (.ti4 12) 3 (-2) 1000 = some (⟨0, -2, 1000⟩, [.detent none]) := by decide
theorem test_t13 : cell (.ti4 13) 3 2 1000 = some (⟨1, 3, 1000⟩, [.detent none]) := by decide
theorem test_t13_fires : cell (.ti4 13) 3 3 1000 = some (⟨1, 0, 900⟩, [.detent (some .cw)]) := by decide
theorem test_t14 : cell (.ti4 14) 3 (-2) 1000 = some (⟨2, -3, 1000⟩, [.detent none]) := by decide
theorem test_t14_fires : cell (.ti4 14) 3 (-3) 1000 = some (⟨2, 0, 1100⟩, [.detent (some .ccw)]) := by decide
theorem test_t15 : cell (.ti4 15) 3 0 1000 = some (⟨3, 0, 1000⟩, [.detent none]) := by decide

/-! ## One step of each operation -/

/-- The example of R131. -/
theorem test_edge_fires : cell (.ev36 0x100000000) 1 3 1000 = some (⟨0, 0, 900⟩, [.detent (some .cw)]) := by decide
/-- V18, its mirror's first event. -/
theorem test_edge_fires_ccw : cell (.ev36 0x100000001) 0 (-3) 1000 = some (⟨1, 0, 1100⟩, [.detent (some .ccw)]) := by
  decide
/-- V26. -/
theorem test_getp : cell (.ev36 0x200000000) 2 (-1) 900 = some (⟨2, -1, 900⟩, [.period 900]) := by decide
/-- V25. -/
theorem test_setp_zero : cell (.ev36 0x300000000) 3 2 477 = some (⟨3, 2, 10⟩, []) := by decide
/-- V25: the operand is unsigned. -/
theorem test_setp_top_bit : cell (.ev36 0x380000000) 3 2 477 = some (⟨3, 2, 3000⟩, []) := by decide
/-- V24. -/
theorem test_applyCw_11 : cell (.ev36 0x400000000) 0 1 11 = some (⟨0, 1, 10⟩, []) := by decide
/-- V24. -/
theorem test_applyCw_2999 : cell (.ev36 0x400000000) 0 1 2999 = some (⟨0, 1, 2700⟩, []) := by decide
/-- V23: the vector that tells the clamped reading. -/
theorem test_applyCcw_2850 : cell (.ev36 0x500000000) 0 0 2850 = some (⟨0, 0, 3000⟩, []) := by decide
/-- V24. -/
theorem test_applyCcw_2727 : cell (.ev36 0x500000000) 0 0 2727 = some (⟨0, 0, 2999⟩, []) := by decide
/-- V27. -/
theorem test_tick_wraps : tickCell 999 1000 true = some (0, false, true) := by decide
/-- V27: the period shrank below the counter. -/
theorem test_tick_reduces : tickCell 950 900 false = some (51, false, true) := by decide
/-- V28. -/
theorem test_reset : cell (.ev36 0xF00000000) 3 (-2) 477 = some (⟨0, 0, 1000⟩, []) := by decide
/-- R185. -/
theorem test_nop : cell (.ev36 0x000000000) 3 (-2) 477 = some (⟨3, -2, 477⟩, []) := by decide

/-- V14: the acknowledge clears both indications, on a step of 0 too. -/
theorem test_edge_acknowledges :
    ∃ t, step (machine 1 0 1000 [.word (.ev36 0x100000001)]) = .next t ∧ t.env.pendA = false ∧ t.env.pendB = false :=
  ⟨_, rfl, rfl, rfl⟩

/-- V30: a refused word, and a word before the first RESET. -/
theorem test_refusals :
    refusalOf (machine 0 0 1000 [.word (.ev36 0xE00000000)]) = some (.illegalWord (.reservedOp 0xE)) ∧
    refusalOf (machine 0 0 1000 [.word (.ev36 0xF00000001)]) = some (.illegalWord (.nonzeroField 0xF)) ∧
    refusalOf { machine 0 0 1000 [.word (.ev36 0x200000000)] with booted := false } = some .beforeReset := by
  decide

/-- R72, R73: a script's words. V1's strings read "A then B" are the four EDGEs of CYCLE+. -/
theorem test_assemble :
    assemble (.seqAB [(false, false), (false, true), (true, true), (true, false), (false, false)] .done) =
      [.ev36 0x100000002, .ev36 0x100000003, .ev36 0x100000001, .ev36 0x100000000] ∧
    assemble (.cyclePlus .done) =
      [.ev36 0x100000002, .ev36 0x100000003, .ev36 0x100000001, .ev36 0x100000000] ∧
    assemble (.rep 2 (.event .applyCw .done) (.event (.setp 500) .done)) =
      [.ev36 0x400000000, .ev36 0x400000000, .ev36 0x3000001F4] := by
  decide

/-- R66, and R72's spelling of two event lines. -/
theorem test_detent_bits_and_event_lines :
    dt2 none = 0b00 ∧ dt2 (some .cw) = 0b01 ∧ dt2 (some .ccw) = 0b11 ∧
    eventLine (.edge 3) = some "EDGE 3" ∧ eventLine .applyCcw = some "APPLY CCW" ∧ eventLine .t02 = none := by
  decide

/-- The first step after reset on words of the opcode table's rows: T11 finds HIST = 2; RESET and NOP change no register. -/
theorem test_withFetchWord_after_reset :
    (∃ t, step (State.reset.withFetchWord 8 0xB) = .next t ∧ t.block = ⟨3, 1, 1000⟩) ∧
    (∃ t, step (State.reset.withFetchWord 40 0xF00000000) = .next t ∧ t.block = ⟨0, 0, 1000⟩) ∧
    step (State.reset.withFetchWord 40 0) = .next State.reset :=
  ⟨⟨_, rfl, rfl⟩, ⟨_, rfl, rfl⟩, rfl⟩

/-- R1. -/
theorem test_identity :
    identity.block = "quadrature_decoder_lut" ∧ identity.repository = "kulbitsky99/STM32" := by
  decide

/-- R7: at an unadmitted configuration a LINE, an idle handler and an empty list of deliveries are refused too. -/
theorem test_unadmitted_config_refuses_moves :
    stepWith { narrow with threshold := 0 } (machine 0 0 20 [.line true true]) = .refused .configNotAdmitted ∧
    stepWith { narrow with threshold := 0 } { State.reset with input := [.handler] } = .refused .configNotAdmitted ∧
    stepWith { narrow with threshold := 0 } State.reset = .refused .configNotAdmitted :=
  ⟨rfl, rfl, rfl⟩

/-! ## A state and operands that meet every hypothesis of each statement, together -/

/-- The invariant holds of `machine` at legal registers. -/
theorem machine_inv (h : Sample) (a : Acc) (p : Ticks) (l : List Input)
    (ha : accLegal reference a = true) (hp : periodLegal reference p = true) : (machine h a p l).Inv reference :=
  ⟨ha, hp, (by decide : (5 : Nat) < 3000), rfl⟩

theorem witness_EncodeInvertsDecode : decode (.ev36 0x100000003) = .ok (.edge 3) := rfl

theorem witness_DecoderAgreesWithOpcodeTable :
    decode (.ev36 0x3FFFFFFFF) = .ok (.setp 0xFFFFFFFF) ∧
    (⟨"SETP", .ev36, 0x300000000, 0xF00000000⟩ : OpRow) ∈ opcodeTable ∧
    OpRow.covers ⟨"SETP", .ev36, 0x300000000, 0xF00000000⟩ (.ev36 0x3FFFFFFFF) = true :=
  ⟨rfl, by decide, by decide⟩

/-- Each part of `illegal`, at its boundaries: op 7, op 14, an EDGE with argument 4, a RESET with argument 1. -/
theorem witness_IllegalEventWordsAreRefused :
    (7 ≤ (0x700000000#36).toNat / 2 ^ 32 ∧ (0x700000000#36).toNat / 2 ^ 32 ≤ 14) ∧
    (7 ≤ (0xEFFFFFFFF#36).toNat / 2 ^ 32 ∧ (0xEFFFFFFFF#36).toNat / 2 ^ 32 ≤ 14) ∧
    ((0x100000004#36).toNat / 2 ^ 32 = 1 ∧ (0x100000004#36).toNat % 2 ^ 32 / 4 ≠ 0) ∧
    ((0xF00000001#36).toNat / 2 ^ 32 = 15 ∧ (0xF00000001#36).toNat % 2 ^ 32 ≠ 0) ∧
    (machine 0 0 1000 [.word (.ev36 0x700000000)]).input = .word (.ev36 0x700000000) :: [] := by
  decide

theorem witness_ClosedWalkSumsToMultipleOfFour :
    noDouble 0 [2, 3, 1, 0] = true ∧ ([2, 3, 1, 0] : List Sample).getLastD 0 = 0 := by decide

theorem witness_SignExtendedStepAddsExactly :
    (-3 ≤ (3 : Acc).toInt ∧ (3 : Acc).toInt ≤ 3) ∧ (-3 ≤ (-3 : Acc).toInt ∧ (-3 : Acc).toInt ≤ 3) := by decide

theorem witness_MissedQuarterSteps :
    memRead (index 0 2) ≠ 0 ∧ memRead (index 2 3) = memRead (index 0 2) ∧
    memRead (index 3 1) = memRead (index 0 2) := by decide

theorem witness_HoldAndDoubleTransitions :
    (Instr.t06, (1 : Sample), (2 : Sample)) ∈ ([(.t00, 0, 0), (.t03, 0, 3), (.t05, 1, 1), (.t06, 1, 2), (.t09, 2, 1),
      (.t10, 2, 2), (.t12, 3, 0), (.t15, 3, 3)] : List (Instr × Sample × Sample)) ∧
    -3 ≤ (machine 1 (-3) 1000 []).block.acc.toInt ∧ (machine 1 (-3) 1000 []).block.acc.toInt ≤ 3 := by
  decide

/-- Both branches: the sum stays below the threshold (ACC = 2), and the detent fires (ACC = 3), at both period bounds. -/
theorem witness_PositiveTransitions :
    (Instr.t04, (1 : Sample), (0 : Sample)) ∈
      ([(.t02, 0, 2), (.t04, 1, 0), (.t11, 2, 3), (.t13, 3, 1)] : List (Instr × Sample × Sample)) ∧
    (-3 ≤ (machine 1 2 1000 []).block.acc.toInt ∧ (machine 1 2 1000 []).block.acc.toInt ≤ 2) ∧
    ((machine 1 3 10 []).block.acc.toInt = 3 ∧ 10 ≤ (machine 1 3 10 []).block.period.toNat ∧
      (machine 1 3 10 []).block.period.toNat ≤ 3000) ∧
    ((machine 1 3 3000 []).block.acc.toInt = 3 ∧ 10 ≤ (machine 1 3 3000 []).block.period.toNat ∧
      (machine 1 3 3000 []).block.period.toNat ≤ 3000) := by
  decide

theorem witness_NegativeTransitions :
    (Instr.t08, (2 : Sample), (0 : Sample)) ∈
      ([(.t01, 0, 1), (.t07, 1, 3), (.t08, 2, 0), (.t14, 3, 2)] : List (Instr × Sample × Sample)) ∧
    (-2 ≤ (machine 2 (-2) 1000 []).block.acc.toInt ∧ (machine 2 (-2) 1000 []).block.acc.toInt ≤ 3) ∧
    ((machine 2 (-3) 10 []).block.acc.toInt = -3 ∧ 10 ≤ (machine 2 (-3) 10 []).block.period.toNat ∧
      (machine 2 (-3) 10 []).block.period.toNat ≤ 3000) ∧
    ((machine 2 (-3) 3000 []).block.acc.toInt = -3 ∧ 10 ≤ (machine 2 (-3) 3000 []).block.period.toNat ∧
      (machine 2 (-3) 3000 []).block.period.toNat ≤ 3000) := by
  decide

theorem witness_EdgeIsTheTransitionOfItsIndex :
    decode (.ti4 (index (machine 1 3 1000 []).block.hist 0)) = .ok .t04 := rfl

/-- The three branches: CW, CCW, neither. -/
theorem witness_EdgeOperation :
    (-3 ≤ (machine 1 3 3000 []).block.acc.toInt ∧ (machine 1 3 3000 []).block.acc.toInt ≤ 3 ∧
      10 ≤ (machine 1 3 3000 []).block.period.toNat ∧ (machine 1 3 3000 []).block.period.toNat ≤ 3000 ∧
      (machine 1 3 3000 []).block.acc.toInt + memRead (index (machine 1 3 3000 []).block.hist 0) = 4) ∧
    (-3 ≤ (machine 2 (-3) 10 []).block.acc.toInt ∧ (machine 2 (-3) 10 []).block.acc.toInt ≤ 3 ∧
      10 ≤ (machine 2 (-3) 10 []).block.period.toNat ∧ (machine 2 (-3) 10 []).block.period.toNat ≤ 3000 ∧
      (machine 2 (-3) 10 []).block.acc.toInt + memRead (index (machine 2 (-3) 10 []).block.hist 0) = -4) ∧
    (machine 3 2 1000 []).block.acc.toInt + memRead (index (machine 3 2 1000 []).block.hist 1) = 3 := by
  decide

theorem witness_RepeatedSampleChangesNoRegister :
    -3 ≤ (machine 3 3 1000 []).block.acc.toInt ∧ (machine 3 3 1000 []).block.acc.toInt ≤ 3 := by decide

theorem witness_EveryEdgeAcknowledgesBothLines :
    (Instr.edge 0).isEdge = true ∧ ∃ t, exec (.edge 0) (machine 1 3 1000 []) = .next t := ⟨rfl, _, rfl⟩

/-- At the reference configuration and at another. -/
theorem witness_EdgeRefinesIntegerPseudocode :
    (reference.admitted = true ∧ accLegal reference (-3) = true ∧ periodLegal reference 3000 = true) ∧
    (narrow.admitted = true ∧ accLegal narrow (-6) = true ∧ periodLegal narrow 21 = true) := by
  decide

theorem witness_AccumulatorCountsSteps :
    let s := machine 0 (-3) 1000 (edgeInputs [2, 3, 1, 0] ++ [.handler])
    s.booted = true ∧ -3 ≤ s.block.acc.toInt ∧ s.block.acc.toInt ≤ 3 ∧ 10 ≤ s.block.period.toNat ∧
    s.block.period.toNat ≤ 3000 ∧ s.input = edgeInputs [2, 3, 1, 0] ++ [.handler] := by
  decide

theorem witness_BounceImmunity :
    let s := machine 0 2 1000 (edgeInputs (List.replicate 2 [(2 : Sample), 0]).flatten ++ [])
    s.booted = true ∧ -3 ≤ s.block.acc.toInt ∧ s.block.acc.toInt ≤ 3 ∧
    -3 ≤ s.block.acc.toInt + memRead (index s.block.hist 2) ∧ s.block.acc.toInt + memRead (index s.block.hist 2) ≤ 3 ∧
    s.input = edgeInputs (List.replicate 2 [2, s.block.hist]).flatten ++ [] := by
  decide

/-- Both clauses: a positive cycle and a negative one. -/
theorem witness_OneCycleIsOneDetent :
    (let s := machine 0 0 10 (cyclePlusEvents.map fun i => Input.word (encode i))
     s.booted = true ∧ s.block.hist = 0 ∧ s.block.acc = 0 ∧ 10 ≤ s.block.period.toNat ∧ s.block.period.toNat ≤ 3000 ∧
     s.input = (cyclePlusEvents.map fun i => Input.word (encode i)) ++ []) ∧
    (let s := machine 0 0 3000 (cycleMinusEvents.map fun i => Input.word (encode i))
     s.booted = true ∧ s.block.hist = 0 ∧ s.block.acc = 0 ∧ 10 ≤ s.block.period.toNat ∧ s.block.period.toNat ≤ 3000 ∧
     s.input = (cycleMinusEvents.map fun i => Input.word (encode i)) ++ []) := by
  decide

theorem witness_NoDetentWithinThreeEdges :
    let s := machine 0 0 1000 (edgeInputs [2, 3, 1])
    ([2, 3, 1] : List Sample).length ≤ 3 ∧ s.booted = true ∧ s.block.acc = 0 ∧
    s.input = edgeInputs [2, 3, 1] ++ [] := by
  decide

theorem witness_PeriodWritesPassThroughClamp :
    narrow.floor ≤ narrow.ceiling ∧ Instr.setp 0 ≠ .reset ∧ ∃ t, exec (.setp 0) (machine 0 0 1000 []) = .next t :=
  ⟨by decide, by decide, _, rfl⟩

/-- Both clauses, and the upper bound. -/
theorem witness_ApplyCwShrinksThePeriod :
    (10 ≤ (machine 0 0 11 []).block.period.toNat ∧ (machine 0 0 11 []).block.period.toNat ≤ 3000 ∧
      (machine 0 0 11 []).block.period.toNat > 10) ∧
    (10 ≤ (machine 0 0 3000 []).block.period.toNat ∧ (machine 0 0 3000 []).block.period.toNat ≤ 3000 ∧
      (machine 0 0 3000 []).block.period.toNat > 10) ∧
    (machine 0 0 10 []).block.period.toNat = 10 := by
  decide

theorem witness_ApplyCcwGrowsThePeriod :
    (10 ≤ (machine 0 0 10 []).block.period.toNat ∧ (machine 0 0 10 []).block.period.toNat ≤ 3000 ∧
      (machine 0 0 10 []).block.period.toNat < 3000) ∧
    (10 ≤ (machine 0 0 2999 []).block.period.toNat ∧ (machine 0 0 2999 []).block.period.toNat ≤ 3000 ∧
      (machine 0 0 2999 []).block.period.toNat < 3000) ∧
    (machine 0 0 3000 []).block.period.toNat = 3000 := by
  decide

/-- The three clauses at the values where they meet. -/
theorem witness_SetpClamps :
    (9 : Ticks).toNat < 10 ∧ (10 ≤ (10 : Ticks).toNat ∧ (10 : Ticks).toNat ≤ 3000) ∧
    (10 ≤ (3000 : Ticks).toNat ∧ (3000 : Ticks).toNat ≤ 3000) ∧ 3000 < (3001 : Ticks).toNat := by
  decide

theorem witness_GetpReturnsThePeriod :
    (10 ≤ (machine 0 0 10 []).block.period.toNat ∧ (machine 0 0 10 []).block.period.toNat ≤ 3000) ∧
    (10 ≤ (machine 0 0 3000 []).block.period.toNat ∧ (machine 0 0 3000 []).block.period.toNat ≤ 3000) := by
  decide

theorem witness_RateOperationsKeepThePeriodInRange :
    (reference.admitted = true ∧ periodLegal reference (machine 0 0 3000 []).block.period = true ∧
      Instr.setp 0 ∈ ([.applyCw, .applyCcw, .setp 0] : List Instr)) ∧
    (narrow.admitted = true ∧ periodLegal narrow (machine 0 0 21 []).block.period = true ∧
      Instr.applyCw ∈ ([.applyCw, .applyCcw, .setp 0] : List Instr)) := by
  decide

/-- The clauses at the floor, above it, below the ceiling, and at it. -/
theorem witness_RateIsStrictlyMonotone :
    (narrow.admitted = true ∧ periodLegal narrow (machine 0 0 20 []).block.period = true ∧
      (machine 0 0 20 []).block.period.toNat = narrow.floor ∧ (machine 0 0 20 []).block.period.toNat < narrow.ceiling) ∧
    (periodLegal narrow (machine 0 0 21 []).block.period = true ∧
      narrow.floor < (machine 0 0 21 []).block.period.toNat ∧ (machine 0 0 21 []).block.period.toNat = narrow.ceiling) := by
  decide

/-- The six clauses. -/
theorem witness_SaturationIsSilent :
    (let s := machine 0 0 10 (List.replicate 100 (.word (encode .applyCw)) ++ [])
     s.booted = true ∧ s.block.period = 10 ∧ s.input = List.replicate 100 (.word (encode .applyCw)) ++ []) ∧
    (let s := machine 0 0 3000 (List.replicate 100 (.word (encode .applyCcw)) ++ [])
     s.booted = true ∧ s.block.period = 3000 ∧ s.input = List.replicate 100 (.word (encode .applyCcw)) ++ []) ∧
    (let s := machine 1 3 10 []
     s.block.period = 10 ∧ s.block.acc.toInt = 3 ∧ memRead (index s.block.hist 0) = 1) ∧
    (let s := machine 2 (-3) 3000 []
     s.block.period = 3000 ∧ s.block.acc.toInt = -3 ∧ memRead (index s.block.hist 0) = -1) ∧
    (machine 0 0 10 []).block.period = 10 ∧ (machine 0 0 3000 []).block.period = 3000 :=
  ⟨⟨rfl, rfl, rfl⟩, ⟨rfl, rfl, rfl⟩, by decide, by decide, rfl, rfl⟩

/-- Both clauses, the second at both bounds. -/
theorem witness_TickCountsModuloThePeriod :
    (machine 0 0 0 []).block.period = 0 ∧
    (10 ≤ (machine 0 0 10 []).block.period.toNat ∧ (machine 0 0 10 []).block.period.toNat ≤ 3000) ∧
    (10 ≤ (machine 0 0 3000 []).block.period.toNat ∧ (machine 0 0 3000 []).block.period.toNat ≤ 3000) := by
  decide

/-- The full period, which is the largest k. -/
theorem witness_OutTogglesOncePerPeriod :
    let s := machine 0 0 10 (tickInputs 10 ++ [])
    s.booted = true ∧ 10 ≤ s.block.period.toNat ∧ s.block.period.toNat ≤ 3000 ∧
    s.env.tickCnt.toNat < s.block.period.toNat ∧ 10 ≤ s.block.period.toNat ∧ s.input = tickInputs 10 ++ [] := by
  decide

/-- Its deliveries: a line change, the handler with an indication pending, and with none. -/
theorem witness_EdgeSourceModel :
    (machine 0 0 1000 [.line false true]).input = .line false true :: [] ∧
    (let s := machine 0 0 1000 [.handler]
     s.input = .handler :: [] ∧ s.booted = true ∧ (s.env.pendA = true ∨ s.env.pendB = true)) ∧
    (let s := { machine 0 0 1000 [.handler] with env := State.reset.env }
     s.input = .handler :: [] ∧ s.booted = true ∧ s.env.pendA = false ∧ s.env.pendB = false) := by
  decide

theorem witness_HandlerEdgeIsAnEventWord :
    (machine 0 0 1000 []).booted = true ∧
    ((machine 0 0 1000 []).env.pendA = true ∨ (machine 0 0 1000 []).env.pendB = true) := by
  decide

theorem witness_NothingDeliveredChangesNothing : State.reset.input = [] := rfl

theorem witness_ResetState :
    (machine 3 1 900 [.envReset true false, .handler]).input = .envReset true false :: [.handler] := rfl

/-- The clauses: RESET, another word, and the handler with an indication pending and with none. -/
theorem witness_BeforeTheFirstReset :
    (let s := { machine 0 0 1000 [.handler] with booted := false }
     s.booted = false ∧ s.input = .handler :: [] ∧ s.env.pendA = true) ∧
    (let s := { machine 0 0 1000 [.handler] with booted := false, env := State.reset.env }
     s.booted = false ∧ s.input = .handler :: [] ∧ s.env.pendA = false ∧ s.env.pendB = false) ∧
    (let s := { machine 0 0 1000 [.word (encode .reset)] with booted := false }
     s.booted = false ∧ s.input = .word (encode .reset) :: []) ∧
    (let s := { machine 0 0 1000 [.word (encode .tick)] with booted := false }
     s.booted = false ∧ s.input = .word (encode .tick) :: [] ∧ encode .tick ≠ encode .reset) := by
  decide

/-- An event word; a transition code at its history; RESET before any RESET; and a code at another history. -/
theorem witness_StepRunsTheDecodedInstruction :
    (let s := machine 0 0 1000 [.word (.ev36 0x100000003)]
     s.input = .word (.ev36 0x100000003) :: [] ∧ decode (.ev36 0x100000003) = .ok (.edge 3) ∧
     (s.booted = true ∨ Instr.edge 3 = .reset) ∧
     ∀ ti, EventWord.ev36 0x100000003 = .ti4 ti → s.block.hist = previousSample ti) ∧
    (let s := machine 3 0 1000 [.word (.ti4 0b1101)]
     s.input = .word (.ti4 0b1101) :: [] ∧ decode (.ti4 0b1101) = .ok .t13 ∧
     (s.booted = true ∨ Instr.t13 = .reset) ∧
     ∀ ti, EventWord.ti4 0b1101 = .ti4 ti → s.block.hist = previousSample ti) ∧
    (let s := { machine 0 0 1000 [.word (.ev36 0xF00000000)] with booted := false }
     s.input = .word (.ev36 0xF00000000) :: [] ∧ decode (.ev36 0xF00000000) = .ok .reset ∧
     (s.booted = true ∨ Instr.reset = .reset) ∧
     ∀ ti, EventWord.ev36 0xF00000000 = .ti4 ti → s.block.hist = previousSample ti) ∧
    (let s := machine 2 0 1000 [.word (.ti4 0b1101)]
     s.input = .word (.ti4 0b1101) :: [] ∧ s.booted = true ∧ s.block.hist ≠ previousSample 0b1101) :=
  ⟨⟨rfl, rfl, .inl rfl, nofun⟩, ⟨rfl, rfl, .inl rfl, fun _ h => by cases h; rfl⟩, ⟨rfl, rfl, .inr rfl, nofun⟩,
    ⟨rfl, rfl, by decide⟩⟩

/-- A row's word with and without an index, and a word that spells nothing. -/
theorem witness_FetchWordIsPerformedNext :
    (decodeTableWord 40 0x200000000 = some .getp ∧ Instr.getp.transitionIndex = none) ∧
    (decodeTableWord 8 0xF = some .t15 ∧ Instr.t15.transitionIndex = some 15) ∧
    decodeTableWord 40 0x700000000 = none := by
  decide

/-- The invariant at its bounds, with a word that is refused and one that is not. -/
theorem witness_NothingFaultsFromALegalState :
    (machine 3 (-3) 3000 [.word (.ev36 0x700000000)]).Inv reference ∧
    (machine 3 3 10 [.word (.ev36 0x100000001)]).Inv reference ∧
    (let s := machine 3 (-3) 3000 [.word (.ev36 0x700000000)]
     s.booted = true ∧ (∀ ti rest, s.input ≠ .word (.ti4 ti) :: rest) ∧
     step s = .refused (.illegalWord (.reservedOp 7))) :=
  ⟨machine_inv _ _ _ _ (by decide) (by decide), machine_inv _ _ _ _ (by decide) (by decide),
    rfl, nofun, rfl⟩

/-- Each clause: ACC at the threshold, PERIOD above the ceiling, PERIOD below the floor and not 0. -/
theorem witness_ExcludedStatesAreStuck :
    ((Instr.edge 0).isEdge = true ∧ accLegal reference (machine 0 4 1000 []).block.acc = false) ∧
    (Instr.getp ∈ ([.applyCw, .applyCcw, .getp] : List Instr) ∧
      periodLegal reference (machine 0 0 3001 []).block.period = false) ∧
    ((machine 0 0 9 []).block.period ≠ 0 ∧ periodLegal reference (machine 0 0 9 []).block.period = false) ∧
    exec .tick (machine 0 0 0 []) = .fault .zeroPeriod :=
  ⟨by decide, by decide, by decide, rfl⟩

/-- Its other clauses: an EDGE and a code that fire at PERIOD 3001 and 9, one that does not fire at 3001, a GETP at an
illegal ACC and the largest PERIOD, and an instruction that reads neither register. -/
theorem witness_ExcludedStatesAreStuck_per_register :
    (edgeIndex (.edge 0) (machine 1 3 3001 []) = some 4 ∧ accLegal reference (machine 1 3 3001 []).block.acc = true ∧
      (machine 1 3 3001 []).block.acc.toInt + memRead 4 = 4 ∧
      periodLegal reference (machine 1 3 3001 []).block.period = false) ∧
    (edgeIndex .t08 (machine 2 (-3) 9 []) = some 8 ∧ accLegal reference (machine 2 (-3) 9 []).block.acc = true ∧
      (machine 2 (-3) 9 []).block.acc.toInt + memRead 8 = -4 ∧
      periodLegal reference (machine 2 (-3) 9 []).block.period = false) ∧
    (edgeIndex .t04 (machine 1 2 3001 []) = some 4 ∧ accLegal reference (machine 1 2 3001 []).block.acc = true ∧
      ¬ ((machine 1 2 3001 []).block.acc.toInt + memRead 4 = 4 ∨
        (machine 1 2 3001 []).block.acc.toInt + memRead 4 = -4)) ∧
    (Instr.getp ∈ ([.applyCw, .applyCcw, .getp, .tick] : List Instr) ∧
      periodLegal reference (machine 0 7 3000 []).block.period = true) ∧
    (Instr.setp 0 = .nop ∨ Instr.setp 0 = .reset ∨ ∃ v, Instr.setp 0 = .setp v) :=
  ⟨by decide, by decide, by decide, by decide, .inr (.inr ⟨0, rfl⟩)⟩

theorem witness_StepKeepsTheInvariant :
    (machine 1 3 10 [.word (.ev36 0x100000000)]).Inv reference ∧
    ∃ t, step (machine 1 3 10 [.word (.ev36 0x100000000)]) = .next t :=
  ⟨machine_inv _ _ _ _ (by decide) (by decide), _, rfl⟩

theorem witness_StepKeepsTheInvariantAtEveryConfig :
    narrow.admitted = true ∧ (machine 1 6 21 [.word (.ev36 0x100000000)]).Inv narrow ∧
    ∃ t, stepWith narrow (machine 1 6 21 [.word (.ev36 0x100000000)]) = .next t :=
  ⟨by decide, ⟨by decide, by decide, by decide, rfl⟩, _, rfl⟩

/-- A configuration that is admitted, one that is not, and R7's own example (FLOOR 20, p = 21). -/
theorem witness_UnadmittedConfigIsRefused :
    (narrow.threshold ≥ 1 ∧ narrow.threshold ≤ 2 ^ (4 - 1) - 1 ∧ narrow.rateDiv = 10 ∧
      narrow.rateDiv ≤ narrow.floor ∧ narrow.floor ≤ narrow.defaultPeriod ∧ narrow.defaultPeriod ≤ narrow.ceiling ∧
      narrow.ceiling + narrow.ceiling / narrow.rateDiv ≤ 2 ^ 32 - 1) ∧
    ¬ (({ narrow with threshold := 0 } : Config).threshold ≥ 1) ∧
    narrow.floor = 20 ∧ 21 ≤ narrow.ceiling := by
  decide

/-- SETP, and an EDGE that emits a detent. -/
theorem witness_OnlyTheseInstructionsWriteThePeriod :
    (∃ t, exec (.setp 500) (machine 1 3 1000 []) = .next t ∧ t.block.period ≠ (machine 1 3 1000 []).block.period) ∧
    (∃ t, exec (.edge 0) (machine 1 3 1000 []) = .next t ∧ t.block.period ≠ (machine 1 3 1000 []).block.period) :=
  ⟨⟨_, rfl, by decide⟩, ⟨_, rfl, by decide⟩⟩

theorem witness_HistAndAccArePrivate :
    Instr.tick.isEdge = false ∧ Instr.tick ≠ .reset ∧ ∃ t, exec .tick (machine 3 (-2) 1000 []) = .next t :=
  ⟨rfl, by decide, _, rfl⟩

theorem witness_ExternalStateOwnership :
    (∃ t, exec .applyCw (machine 0 0 1000 []) = .next t) ∧ Instr.applyCw.isEdge = false ∧ Instr.applyCw ≠ .tick ∧
    Instr.applyCw ≠ .reset ∧ ∃ t, exec .tick (machine 0 0 1000 []) = .next t :=
  ⟨⟨_, rfl⟩, rfl, by decide, by decide, _, rfl⟩

/-- RESET, and the handler's EDGE with line A high and HIST = 3: transition T13 at ACC = 3. -/
theorem witness_ClosedSystemHasOneWriterPath :
    (let s := machine 0 0 900 [.word (encode .reset)]
     (Input.word (encode .reset)).closedSystem = true ∧ ∃ t, step s = .next t ∧ t.block.period ≠ s.block.period) ∧
    (let s := machine 3 3 1000 [.handler]
     Input.handler.closedSystem = true ∧ ∃ t, step s = .next t ∧ t.block.period ≠ s.block.period) :=
  ⟨⟨rfl, _, rfl, by decide⟩, ⟨rfl, _, rfl, by decide⟩⟩

theorem witness_ReadsReturnTheCurrentPeriod :
    ∃ t, step (machine 0 0 1000 [.word (.ev36 0x200000000)]) = .next t ∧ t.history = [.period 1000] :=
  ⟨_, rfl, rfl⟩

/-- V11: SETP 255, SETP 256, GETP from a legal state. -/
theorem witness_NoTornRead :
    (machine 0 0 1000 [.word (.ev36 0x3000000FF), .word (.ev36 0x300000100), .word (.ev36 0x200000000)]).Inv
      reference ∧
    ∃ t, run 3 (machine 0 0 1000
      [.word (.ev36 0x3000000FF), .word (.ev36 0x300000100), .word (.ev36 0x200000000)]) = .next t ∧
      .period 256 ∈ t.history :=
  ⟨machine_inv _ _ _ _ (by decide) (by decide), _, rfl, by decide⟩

theorem witness_TickAndEdgeCommuteOnTheBlock : (machine 1 3 1000 []).Inv reference :=
  machine_inv _ _ _ _ (by decide) (by decide)

/-- V1's sequence from HIST = 0, then a repeated body. -/
theorem witness_WellFormedScriptsRunToTheEnd :
    let s := machine 0 0 1000 [.handler]
    let sc : Script := .seqAB [(false, false), (false, true), (true, true), (true, false), (false, false)]
      (.rep 2 (.cycleMinus .done) (.event .tick .done))
    s.booted = true ∧ s.Inv reference ∧ sc.wf s.block.hist = true :=
  ⟨rfl, machine_inv _ _ _ _ (by decide) (by decide), by decide⟩

end Sys2Proof.Tests
end

/-!
## Scope (00_scope.md)

Admitted configurations (R7) and what they give; the invariant and the integer pseudocode of EDGE at every one of
them; the step on a word; the reference machine as the parametric one.
-/

namespace Sys2Proof.Machine

/-! ### Admitted configurations -/

/-- R7 (a) to (d), with the widths of R6 as numbers. -/
theorem admitted_iff (c : Config) :
    c.admitted = true ↔
      (1 ≤ c.threshold ∧ c.threshold ≤ 7) ∧ c.rateDiv = 10 ∧
      (c.rateDiv ≤ c.floor ∧ c.floor ≤ c.defaultPeriod ∧ c.defaultPeriod ≤ c.ceiling) ∧
      c.ceiling + c.ceiling / c.rateDiv ≤ 4294967295 := by
  simp only [Config.admitted, Bool.and_eq_true, decide_eq_true_eq, and_assoc]
  exact Iff.rfl

/-- At an admitted configuration every PERIOD that `CLAMP` can give fits 32 bits. -/
theorem ceiling_lt_of_admitted {c : Config} (hc : c.admitted = true) : c.ceiling < 2 ^ 32 := by
  obtain ⟨-, -, -, hfit⟩ := (admitted_iff c).mp hc
  exact Nat.lt_of_le_of_lt ((Nat.le_add_right _ _).trans hfit) (by decide)

theorem reference_admitted : reference.admitted = true := by decide

/-! ### Values stored in the fixed widths (R22, R67) -/

/-- An integer of the range R23(a) reads back from ACC unchanged, since THRESHOLD is at most 7. -/
theorem toInt_ofInt_acc {c : Config} (hc : c.admitted = true) {v : Int} (hlo : -(c.threshold : Int) < v)
    (hhi : v < c.threshold) : (BitVec.ofInt 4 v).toInt = v := by
  obtain ⟨⟨-, hthr⟩, -⟩ := (admitted_iff c).mp hc
  exact BitVec.toInt_ofInt_eq_self (by decide) (by omega) (by omega)

/-- A value up to CEILING reads back from PERIOD unchanged. -/
theorem toNat_ofNat_period {c : Config} (hc : c.admitted = true) {v : Nat} (hv : v ≤ c.ceiling) :
    (BitVec.ofNat 32 v).toNat = v := by
  have hfit := ceiling_lt_of_admitted hc
  exact Nat.mod_eq_of_lt (by omega)

theorem periodLegal_ofNat {c : Config} (hc : c.admitted = true) {v : Nat} (hlo : c.floor ≤ v)
    (hhi : v ≤ c.ceiling) : periodLegal c (BitVec.ofNat 32 v) = true := by
  rw [periodLegal_iff, toNat_ofNat_period hc hhi]
  exact ⟨hlo, hhi⟩

/-! ### DETECT and the values the rate operations store -/

/-- The three outcomes of DETECT (R130). -/
theorem detect_cases (c : Config) (a : Int) :
    (a = c.threshold ∧ detect c a = (0, some .cw)) ∨
    (a ≠ c.threshold ∧ a = -c.threshold ∧ detect c a = (0, some .ccw)) ∨
    (a ≠ c.threshold ∧ a ≠ -c.threshold ∧ detect c a = (a, none)) := by
  by_cases hp : a = c.threshold
  · exact .inl ⟨hp, by simp [detect, hp]⟩
  · by_cases hn : a = -c.threshold
    · exact .inr (.inl ⟨hp, hn, by simp only [detect, if_neg hp, if_pos hn]⟩)
    · exact .inr (.inr ⟨hp, hn, detect_none c a hp hn⟩)

/-- A step changes a legal ACC by at most 1, so DETECT stores a value inside the range R23(a) again. -/
theorem detect_stores_legal {c : Config} (hc : c.admitted = true) {acc : Acc} (ha : accLegal c acc = true)
    {ti : Index} {v : Int} {d : Option Detent} (h : detect c (acc.toInt + memRead ti) = (v, d)) :
    -(c.threshold : Int) < v ∧ v < c.threshold := by
  obtain ⟨⟨hthr, -⟩, -⟩ := (admitted_iff c).mp hc
  obtain ⟨hlo, hhi⟩ := (accLegal_iff c acc).mp ha
  have hstep := memRead_bounds ti
  rcases detect_cases c (acc.toInt + memRead ti) with ⟨-, hd⟩ | ⟨-, -, hd⟩ | ⟨hp, hn, hd⟩
  all_goals
    rw [hd] at h
    cases h
    omega

theorem accLegal_ofInt {c : Config} (hc : c.admitted = true) {v : Int} (hlo : -(c.threshold : Int) < v)
    (hhi : v < c.threshold) : accLegal c (BitVec.ofInt 4 v) = true := by
  rw [accLegal_iff, toInt_ofInt_acc hc hlo hhi]
  exact ⟨hlo, hhi⟩

/-- Either rate update leaves a legal PERIOD legal: it clamps, or keeps the value (R151, R152). -/
theorem adjustedPeriod_bounds {c : Config} (d : Detent) {p : Nat} (hlo : c.floor ≤ p) (hhi : p ≤ c.ceiling) :
    c.floor ≤ adjustedPeriod c d p ∧ adjustedPeriod c d p ≤ c.ceiling := by
  cases d with
  | cw =>
    simp only [adjustedPeriod, shrunkPeriod]
    split
    · exact clamp_bounds c _ (hlo.trans hhi)
    · exact ⟨hlo, hhi⟩
  | ccw =>
    simp only [adjustedPeriod, grownPeriod]
    split
    · exact clamp_bounds c _ (hlo.trans hhi)
    · exact ⟨hlo, hhi⟩

/-- SETP clamps, or, where SETP_REJECTS, may keep a legal PERIOD (R154, U3). -/
theorem setPeriodValue_bounds {c : Config} (v : Nat) {old : Nat} (hlo : c.floor ≤ old) (hhi : old ≤ c.ceiling) :
    c.floor ≤ setPeriodValue c v old ∧ setPeriodValue c v old ≤ c.ceiling := by
  unfold setPeriodValue
  split
  · exact ⟨hlo, hhi⟩
  · exact clamp_bounds c _ (hlo.trans hhi)

/-! ### The invariant under each update of the state -/

theorem State.Inv.afterEdge {c : Config} {s : State} (hs : s.Inv c) {acc : Acc} {p : Ticks}
    (ha : accLegal c acc = true) (hp : periodLegal c p = true) (smp : Sample) (d : Option Detent) :
    (s.afterEdge smp acc p d).Inv c :=
  ⟨ha, hp, hs.tickCnt, hs.history⟩

theorem State.Inv.setPeriod {c : Config} {s : State} (hs : s.Inv c) {v : Nat}
    (hp : periodLegal c (BitVec.ofNat 32 v) = true) : (s.setPeriod v).Inv c :=
  ⟨hs.acc, hp, hs.tickCnt, hs.history⟩

theorem State.Inv.report {c : Config} {s : State} (hs : s.Inv c) {r : Report} (hr : reportLegal c r = true) :
    (s.report r).Inv c :=
  ⟨hs.acc, hs.period, hs.tickCnt, by rw [State.report_history, List.all_cons, hr, hs.history]; rfl⟩

/-- Taking a delivery touches nothing the invariant speaks of. -/
theorem State.Inv.withInput {c : Config} {s : State} (hs : s.Inv c) (l : List Input) :
    State.Inv c { s with input := l } :=
  ⟨hs.acc, hs.period, hs.tickCnt, hs.history⟩

/-! ### The invariant under each operation -/

theorem transition_keeps_inv {c : Config} (hc : c.admitted = true) {ti : Index} {s t : State} (hs : s.Inv c)
    (h : transition c ti s = .next t) : t.Inv c := by
  obtain ⟨ha, ⟨v, hd, rfl⟩ | ⟨v, d, hd, hp, rfl⟩⟩ := transition_next h
  all_goals
    obtain ⟨hvlo, hvhi⟩ := detect_stores_legal hc ha hd
    have hacc := accLegal_ofInt hc hvlo hvhi
  · exact hs.afterEdge hacc hs.period _ _
  · obtain ⟨hlo, hhi⟩ := (periodLegal_iff c _).mp hp
    obtain ⟨hlo', hhi'⟩ := adjustedPeriod_bounds d hlo hhi
    exact hs.afterEdge hacc (periodLegal_ofNat hc hlo' hhi') _ _

theorem applyDetent_keeps_inv {c : Config} (hc : c.admitted = true) {d : Detent} {s t : State} (hs : s.Inv c)
    (h : applyDetent c d s = .next t) : t.Inv c := by
  obtain ⟨hp, rfl⟩ := applyDetent_next h
  obtain ⟨hlo, hhi⟩ := (periodLegal_iff c _).mp hp
  obtain ⟨hlo', hhi'⟩ := adjustedPeriod_bounds d hlo hhi
  exact hs.setPeriod (periodLegal_ofNat hc hlo' hhi')

theorem setPeriodTo_keeps_inv {c : Config} (hc : c.admitted = true) {v : Ticks} {s t : State} (hs : s.Inv c)
    (h : setPeriodTo c v s = .next t) : t.Inv c := by
  cases h
  obtain ⟨hlo, hhi⟩ := (periodLegal_iff c _).mp hs.period
  obtain ⟨hlo', hhi'⟩ := setPeriodValue_bounds v.toNat hlo hhi
  exact hs.setPeriod (periodLegal_ofNat hc hlo' hhi')

theorem getPeriod_keeps_inv {c : Config} {s t : State} (hs : s.Inv c) (h : getPeriod c s = .next t) : t.Inv c := by
  obtain ⟨hp, rfl⟩ := getPeriod_next h
  exact hs.report hp

/-- The counter is stored reduced modulo a PERIOD that is not 0 and at most CEILING (R183). -/
theorem blink_keeps_inv {c : Config} (hc : c.admitted = true) {s t : State} (hs : s.Inv c)
    (h : blink c s = .next t) : t.Inv c := by
  obtain ⟨hz, hp, rfl⟩ := blink_next h
  obtain ⟨-, hhi⟩ := (periodLegal_iff c _).mp hp
  have hpos : 0 < s.block.period.toNat := by
    rw [Nat.pos_iff_ne_zero]
    exact fun h0 => hz (BitVec.eq_of_toNat_eq h0)
  have hcnt : nextCount s.env.tickCnt.toNat s.block.period.toNat < s.block.period.toNat := Nat.mod_lt _ hpos
  refine ⟨hs.acc, hs.period, ?_, (hs.report (r := .tickRead s.block.period) hp).history⟩
  rw [toNat_ofNat_period hc (by omega)]
  omega

theorem initBlock_keeps_inv {c : Config} (hc : c.admitted = true) {s t : State} (hs : s.Inv c)
    (h : initBlock c s = .next t) : t.Inv c := by
  cases h
  obtain ⟨⟨hthr, -⟩, -, ⟨-, hlo, hhi⟩, -⟩ := (admitted_iff c).mp hc
  have hacc : accLegal c 0 = true := by
    rw [accLegal_iff, BitVec.ofNat_eq_ofNat, BitVec.toInt_zero]
    omega
  exact ⟨hacc, periodLegal_ofNat hc hlo hhi, hs.tickCnt, hs.history⟩

/-! ### The machine at a configuration -/

/-- At an admitted configuration, too, an instruction that looks up an index is the transition of that index. -/
theorem execWith_of_edgeIndex {c : Config} (hc : c.admitted = true) {i : Instr} {s : State} {ti : Index}
    (h : edgeIndex i s = some ti) : execWith c i s = transition c ti s := by
  cases i <;> cases h <;> exact if_pos hc

theorem execWith_keeps_inv {c : Config} (hc : c.admitted = true) {i : Instr} {s t : State} (hs : s.Inv c)
    (h : execWith c i s = .next t) : t.Inv c := by
  cases hti : edgeIndex i s with
  | some ti => exact transition_keeps_inv hc hs (execWith_of_edgeIndex hc hti ▸ h)
  | none =>
    simp only [execWith, if_pos hc] at h
    cases i with
    | nop => cases h; exact hs
    | getp => exact getPeriod_keeps_inv hs h
    | setp v => exact setPeriodTo_keeps_inv hc hs h
    | applyCw => exact applyDetent_keeps_inv hc hs h
    | applyCcw => exact applyDetent_keeps_inv hc hs h
    | tick => exact blink_keeps_inv hc hs h
    | reset => exact initBlock_keeps_inv hc hs h
    | _ => cases hti

/-- A move of the environment keeps the invariant: TICKCNT stays, or is cleared below a CEILING that is not 0. -/
theorem fetch_move_keeps_inv {c : Config} (hc : c.admitted = true) {s t : State} (hs : s.Inv c)
    (h : fetch s = .move t) : t.Inv c := by
  obtain ⟨hblock, -, hhist, hcnt⟩ := fetch_move h
  refine ⟨hblock ▸ hs.acc, hblock ▸ hs.period, ?_, hhist ▸ hs.history⟩
  rcases hcnt with hcnt | hcnt
  · exact hcnt ▸ hs.tickCnt
  · obtain ⟨-, hdiv, ⟨hfloor, hlo, hhi⟩, -⟩ := (admitted_iff c).mp hc
    rw [hcnt, BitVec.ofNat_eq_ofNat, BitVec.toNat_zero]
    omega

/-- Settles O50, by what the fetch asks for: an instruction on the state with the delivery taken, or a move. -/
theorem stepKeepsTheInvariantAtEveryConfig : Obligations.StepKeepsTheInvariantAtEveryConfig := by
  intro c s t hc hs h
  rw [stepWith_admitted hc] at h
  cases hf : fetch s with
  | run i u =>
    obtain ⟨x, rest, -, rfl⟩ := fetch_run hf
    rw [hf] at h
    exact execWith_keeps_inv hc (hs.withInput rest) h
  | move u =>
    rw [hf] at h
    cases h
    exact fetch_move_keeps_inv hc hs hf
  | refuse r =>
    rw [hf] at h
    cases h

/-! ### The integer pseudocode of an EDGE -/

/-- The Nat `CLAMP` is the integer one. -/
theorem clamp_toInt (c : Config) (v : Nat) : (clamp c v : Int) = intClamp c v := by
  simp [clamp, intClamp]

/-- Truncated division agrees with `Nat` division, and a tenth is at most the whole (R9). -/
theorem shrunkPeriod_toInt (c : Config) (p : Nat) : (shrunkPeriod c p : Int) = intShrink c p := by
  have htenth : p / c.rateDiv ≤ p := Nat.div_le_self _ _
  by_cases hp : c.floor < p
  · rw [shrunkPeriod, if_pos hp, intShrink, if_pos (by omega), clamp_toInt, Nat.cast_sub htenth, Int.ofNat_tdiv]
  · rw [shrunkPeriod, if_neg hp, intShrink, if_neg (by omega)]

theorem grownPeriod_toInt (c : Config) (p : Nat) : (grownPeriod c p : Int) = intGrow c p := by
  by_cases hp : p < c.ceiling
  · rw [grownPeriod, if_pos hp, intGrow, if_pos (by omega), clamp_toInt, Nat.cast_add, Int.ofNat_tdiv]
  · rw [grownPeriod, if_neg hp, intGrow, if_neg (by omega)]

/-- The registers an EDGE leaves, read as integers, when neither store is truncated. -/
theorem afterEdge_toInts {c : Config} (hc : c.admitted = true) (s : State) (smp : Sample) (d : Option Detent)
    {v : Int} (hvlo : -(c.threshold : Int) < v) (hvhi : v < c.threshold) {p : Nat} (hp : p ≤ c.ceiling) :
    (s.afterEdge smp (BitVec.ofInt 4 v) (BitVec.ofNat 32 p) d).block.toInts =
      { hist := smp, acc := v, period := p } := by
  simp only [Block.toInts, State.afterEdge, toInt_ofInt_acc hc hvlo hvhi, toNat_ofNat_period hc hp]

/-- From a legal ACC and PERIOD a transition completes, and computes the listing of R131 over the integers. -/
theorem transition_refines_intEdge {c : Config} (hc : c.admitted = true) (ti : Index) {s : State}
    (ha : accLegal c s.block.acc = true) (hp : periodLegal c s.block.period = true) :
    ∃ t, transition c ti s = .next t ∧ t.block.toInts = (intEdge c ti s.block.toInts).1 ∧
      t.history = .detent (intEdge c ti s.block.toInts).2 :: s.history := by
  obtain ⟨hlo, hhi⟩ := (periodLegal_iff c _).mp hp
  have hacc : s.block.toInts.acc = s.block.acc.toInt := rfl
  have hper : s.block.toInts.period = s.block.period.toNat := rfl
  rw [transition_eq, if_pos ha]
  rcases detect_cases c (s.block.acc.toInt + memRead ti) with ⟨hsum, hd⟩ | ⟨hpos, hsum, hd⟩ |
      ⟨hpos, hneg, hd⟩
  all_goals
    obtain ⟨hvlo, hvhi⟩ := detect_stores_legal hc ha hd
    rw [hd]
  · obtain ⟨-, hle⟩ := adjustedPeriod_bounds .cw hlo hhi
    simp only [intEdge, hacc, hper, if_pos hsum, if_pos hp]
    refine ⟨_, rfl, ?_, rfl⟩
    rw [afterEdge_toInts hc s _ _ hvlo hvhi hle, adjustedPeriod, shrunkPeriod_toInt]
  · obtain ⟨-, hle⟩ := adjustedPeriod_bounds .ccw hlo hhi
    simp only [intEdge, hacc, hper, if_neg hpos, if_pos hsum, if_pos hp]
    refine ⟨_, rfl, ?_, rfl⟩
    rw [afterEdge_toInts hc s _ _ hvlo hvhi hle, adjustedPeriod, grownPeriod_toInt]
  · simp only [intEdge, hacc, hper, if_neg hpos, if_neg hneg]
    refine ⟨_, rfl, ?_, rfl⟩
    simp only [Block.toInts, State.afterEdge, toInt_ofInt_acc hc hvlo hvhi]

/-- Settles O22: an EDGE is the transition of the index of HIST and its sample. -/
theorem edgeRefinesIntegerPseudocode : Obligations.EdgeRefinesIntegerPseudocode := by
  intro c s smp hc ha hp
  rw [execWith_of_edgeIndex hc (edgeIndex_edge smp s)]
  exact transition_refines_intEdge hc (index s.block.hist smp) ha hp

/-! ### What R7 gives, and what it refuses -/

/-- R7's own example: 21 - 2 = 19 is clamped back to FLOOR 20. -/
theorem shrunkPeriod_clamps_to_floor {c : Config} (hdiv : c.rateDiv = 10) (hfloor : c.floor = 20)
    (hceil : 21 ≤ c.ceiling) : shrunkPeriod c 21 = 20 := by
  rw [shrunkPeriod, clamp, hdiv, hfloor, if_pos (by decide)]
  omega

/-- Settles O52: the check is R7 (a) to (d), and both machines look at it first. -/
theorem unadmittedConfigIsRefused : Obligations.UnadmittedConfigIsRefused := by
  intro c constraints
  have hadm : c.admitted = true ↔ constraints := admitted_iff c
  have hrefuse : ¬ constraints → c.admitted = false := fun h => Bool.eq_false_iff.mpr (mt hadm.mp h)
  refine ⟨hadm, fun h => execWith_unadmitted (hrefuse h), fun h => stepWith_unadmitted (hrefuse h), ?_, ?_⟩
  · rintro ⟨-, hdiv, ⟨hfloor, hlo, hhi⟩, hfit⟩
    refine ⟨fun p hp => by omega, ⟨hlo, hhi⟩, fun p hp => ?_⟩
    have htenth : p / c.rateDiv ≤ c.ceiling / c.rateDiv := Nat.div_le_div_right hp
    omega
  · rintro ⟨-, hdiv, -, -⟩ hfloor hceil
    exact shrunkPeriod_clamps_to_floor hdiv hfloor hceil

/-! ### The step on a word -/

/-- The index of a word is formed exactly where a transition code finds its previous sample in HIST (R63). -/
theorem indexFormed_iff (w : EventWord) (s : State) :
    indexFormed w s = true ↔ ∀ ti, w = .ti4 ti → s.block.hist = previousSample ti := by
  cases w <;> simp [indexFormed]

/-- A transition code at another history is refused (log entry 2). -/
theorem acceptWord_ti4_indexNotFormed {ti : Index} {s : State} (hb : s.booted = true)
    (hh : s.block.hist ≠ previousSample ti) : acceptWord (.ti4 ti) s = .refuse .indexNotFormed := by
  simp [acceptWord, decode, indexFormed, hb, hh]

/-- Settles O44: a word's index is formed or not, and the fetch decides by that alone once the word is allowed. -/
theorem stepRunsTheDecodedInstruction : Obligations.StepRunsTheDecodedInstruction := by
  constructor
  · intro s w i rest hin hd hb hcode
    exact step_word hin hd hb ((indexFormed_iff w _).mpr hcode)
  · intro s ti rest hin hb hh
    have haccept := acceptWord_ti4_indexNotFormed (s := { s with input := rest }) hb hh
    simp only [step, fetch_word hin, haccept]

/-! ### The reference machine -/

theorem exec_eq_execWith_reference (i : Instr) (s : State) : exec i s = execWith reference i s := by
  cases i <;> exact (if_pos reference_admitted).symm

theorem step_eq_stepWith_reference (s : State) : step s = stepWith reference s := by
  rw [stepWith_admitted reference_admitted, step]
  cases fetch s with
  | run i t => exact exec_eq_execWith_reference i t
  | move t => rfl
  | refuse r => rfl

/-- Settles O51. `PRIO` is an uninterpreted constant, but the check of R7 does not read it. -/
theorem referenceMachineIsAnInstance : Obligations.ReferenceMachineIsAnInstance :=
  ⟨⟨rfl, rfl, rfl⟩, ⟨rfl, rfl, rfl, rfl, rfl, rfl⟩, reference_admitted, exec_eq_execWith_reference,
    step_eq_stepWith_reference⟩

end Sys2Proof.Machine

/-!
## State (10_state.md)

The reset state and the environment's own initialisation; the invariant of the reference machine; the word placed next;
who writes PERIOD and the external state; and where an instruction stops.
-/

namespace Sys2Proof.Machine

/-! ### The invariant at the reference configuration -/

/-- Settles O49: the reference machine is the parametric one, whose steps keep the invariant. -/
theorem stepKeepsTheInvariant : Obligations.StepKeepsTheInvariant := by
  intro s t hs h
  rw [step_eq_stepWith_reference] at h
  exact stepKeepsTheInvariantAtEveryConfig reference s t reference_admitted hs h

/-- Settles O48: the registers are the reset constants, the counter is 0 and nothing has been read. -/
theorem resetMeetsTheInvariant : Obligations.ResetMeetsTheInvariant := by
  intro a b
  have hacc : accLegal reference 0 = true := by decide
  have hperiod : periodLegal reference 1000 = true := by decide
  have hcnt : (0 : BitVec 32).toNat < reference.ceiling := by decide
  exact ⟨hacc, hperiod, hcnt, rfl⟩

/-- Settles O42: the fields of the reset state, and the step on the delivered initialisation. -/
theorem resetState : Obligations.ResetState :=
  ⟨fun _ _ => ⟨rfl, rfl⟩, ⟨false, false, rfl⟩, fun _ _ _ _ h => step_envReset h⟩

/-! ### Where an operation stops -/

/-- A legal PERIOD is not 0, since R7 keeps FLOOR at 10 or more. -/
theorem ne_zero_of_periodLegal {c : Config} (hc : c.admitted = true) {p : Ticks} (hp : periodLegal c p = true) :
    p ≠ 0 := by
  rintro rfl
  obtain ⟨-, hdiv, ⟨hfloor, -⟩, -⟩ := (admitted_iff c).mp hc
  obtain ⟨hlo, -⟩ := (periodLegal_iff c _).mp hp
  rw [BitVec.ofNat_eq_ofNat, BitVec.toNat_zero] at hlo
  omega

theorem transition_accOutOfRange {c : Config} {ti : Index} {s : State} (ha : accLegal c s.block.acc = false) :
    transition c ti s = .fault .accOutOfRange := by
  rw [transition_eq, if_neg (Bool.eq_false_iff.mp ha)]

/-- A sum at the threshold, of either sign, is a detent. -/
theorem detect_at_threshold {c : Config} {a : Int} (h : a = c.threshold ∨ a = -c.threshold) :
    ∃ d, detect c a = (0, some d) := by
  rcases detect_cases c a with ⟨-, hd⟩ | ⟨-, -, hd⟩ | ⟨hp, hn, -⟩
  · exact ⟨_, hd⟩
  · exact ⟨_, hd⟩
  · exact absurd h (not_or.mpr ⟨hp, hn⟩)

/-- A transition whose sum reaches the threshold reads PERIOD. -/
theorem transition_at_threshold {c : Config} {ti : Index} {s : State} (ha : accLegal c s.block.acc = true)
    (hsum : s.block.acc.toInt + memRead ti = c.threshold ∨ s.block.acc.toInt + memRead ti = -c.threshold) :
    ∃ t, transition c ti s = if periodLegal c s.block.period then .next t else .fault .periodOutOfRange := by
  obtain ⟨d, hd⟩ := detect_at_threshold hsum
  rw [transition_eq, if_pos ha, hd]
  exact ⟨_, rfl⟩

/-- A transition whose sum stays below the threshold does not read PERIOD. -/
theorem transition_below_threshold {c : Config} {ti : Index} {s : State} (ha : accLegal c s.block.acc = true)
    (hsum : ¬ (s.block.acc.toInt + memRead ti = c.threshold ∨ s.block.acc.toInt + memRead ti = -c.threshold)) :
    ∃ t, transition c ti s = .next t := by
  obtain ⟨hp, hn⟩ := not_or.mp hsum
  rw [transition_eq, if_pos ha, detect_none c _ hp hn]
  exact ⟨_, rfl⟩

/-- A transition completes where every register that it reads is legal. -/
theorem transition_next_of_reads_legal {c : Config} {ti : Index} {s : State} (ha : accLegal c s.block.acc = true)
    (hreads : ¬ (s.block.acc.toInt + memRead ti = c.threshold ∨ s.block.acc.toInt + memRead ti = -c.threshold) ∨
      periodLegal c s.block.period = true) : ∃ t, transition c ti s = .next t := by
  by_cases hsum : s.block.acc.toInt + memRead ti = c.threshold ∨ s.block.acc.toInt + memRead ti = -c.threshold
  · obtain ⟨t, ht⟩ := transition_at_threshold ha hsum
    exact ⟨t, ht.trans (if_pos (hreads.resolve_left (not_not_intro hsum)))⟩
  · exact transition_below_threshold ha hsum

theorem transition_periodOutOfRange {c : Config} {ti : Index} {s : State} (ha : accLegal c s.block.acc = true)
    (hsum : s.block.acc.toInt + memRead ti = c.threshold ∨ s.block.acc.toInt + memRead ti = -c.threshold)
    (hp : periodLegal c s.block.period = false) : transition c ti s = .fault .periodOutOfRange := by
  obtain ⟨t, ht⟩ := transition_at_threshold ha hsum
  exact ht.trans (if_neg (Bool.eq_false_iff.mp hp))

/-- A result guarded by a range check is a next state or a fault. -/
theorem ite_next_fault_ne_refused (p : Prop) [Decidable p] (t : State) (f : Fault) (r : Refusal) :
    (if p then .next t else .fault f : Result) ≠ .refused r := by
  split <;> nofun

theorem transition_ne_refused (c : Config) (ti : Index) (s : State) (r : Refusal) :
    transition c ti s ≠ .refused r := by
  cases ha : accLegal c s.block.acc with
  | false => rw [transition_accOutOfRange ha]; nofun
  | true =>
    by_cases hsum : s.block.acc.toInt + memRead ti = c.threshold ∨ s.block.acc.toInt + memRead ti = -c.threshold
    · obtain ⟨t, ht⟩ := transition_at_threshold ha hsum
      exact ht ▸ ite_next_fault_ne_refused _ t _ r
    · obtain ⟨t, ht⟩ := transition_below_threshold ha hsum
      rw [ht]
      nofun

theorem blink_ne_refused (c : Config) (s : State) (r : Refusal) : blink c s ≠ .refused r := by
  unfold blink
  split
  · nofun
  · exact ite_next_fault_ne_refused _ _ _ r

/-- Apart from EDGE and the transition codes, a legal PERIOD is all that an instruction needs. -/
theorem exec_next_of_periodLegal {i : Instr} {s : State} (hi : i.isEdge = false)
    (hp : periodLegal reference s.block.period = true) : ∃ t, exec i s = .next t := by
  have hz := ne_zero_of_periodLegal reference_admitted hp
  cases i with
  | nop => exact ⟨_, rfl⟩
  | getp => exact ⟨_, if_pos hp⟩
  | setp v => exact ⟨_, rfl⟩
  | applyCw => exact ⟨_, if_pos hp⟩
  | applyCcw => exact ⟨_, if_pos hp⟩
  | tick => exact ⟨_, (if_neg hz).trans (if_pos hp)⟩
  | reset => exact ⟨_, rfl⟩
  | _ => cases hi

/-- With ACC and PERIOD legal every instruction completes (R200). -/
theorem exec_next_of_legal (i : Instr) {s : State} (ha : accLegal reference s.block.acc = true)
    (hp : periodLegal reference s.block.period = true) : ∃ t, exec i s = .next t := by
  cases hi : i.isEdge with
  | false => exact exec_next_of_periodLegal hi hp
  | true =>
    obtain ⟨ti, -, hexec⟩ := exec_of_isEdge hi s
    obtain ⟨t, ht, -⟩ := transition_refines_intEdge reference_admitted ti ha hp
    exact ⟨t, hexec.trans ht⟩

theorem exec_ne_refused (i : Instr) (s : State) (r : Refusal) : exec i s ≠ .refused r := by
  cases hi : i.isEdge with
  | true =>
    obtain ⟨ti, -, hexec⟩ := exec_of_isEdge hi s
    rw [hexec]
    exact transition_ne_refused reference ti s r
  | false =>
    cases i with
    | nop => nofun
    | getp => exact ite_next_fault_ne_refused _ _ _ r
    | setp v => nofun
    | applyCw => exact ite_next_fault_ne_refused _ _ _ r
    | applyCcw => exact ite_next_fault_ne_refused _ _ _ r
    | tick => exact blink_ne_refused reference s r
    | reset => nofun
    | _ => cases hi

/-- An instruction faults only where one of the two registers is excluded. -/
theorem excluded_of_exec_fault {i : Instr} {s : State} {f : Fault} (h : exec i s = .fault f) :
    accLegal reference s.block.acc = false ∨ periodLegal reference s.block.period = false := by
  cases ha : accLegal reference s.block.acc with
  | false => exact .inl rfl
  | true =>
    cases hp : periodLegal reference s.block.period with
    | false => exact .inr rfl
    | true =>
      obtain ⟨t, ht⟩ := exec_next_of_legal i ha hp
      cases h.symm.trans ht

/-- Settles O47: EDGE and the codes by what their transition reads, the others by the range of PERIOD. -/
theorem excludedStatesAreStuck : Obligations.ExcludedStatesAreStuck := by
  intro i s
  refine ⟨fun ti hti => ?transition, fun hi hp => ?readersComplete, ?tickAtZero, ?nonReaders, fun hi ha => ?accExcluded,
    fun hi hp => ?periodExcluded, ?tickExcluded, fun f => excluded_of_exec_fault, exec_ne_refused i s⟩
  case transition =>
    rw [exec_of_edgeIndex hti]
    exact ⟨transition_periodOutOfRange, transition_next_of_reads_legal⟩
  case readersComplete =>
    have hedge : i.isEdge = false := by
      simp only [List.mem_cons, List.not_mem_nil, or_false] at hi
      rcases hi with rfl | rfl | rfl | rfl <;> rfl
    exact exec_next_of_periodLegal hedge hp
  case tickAtZero =>
    rintro rfl hz
    exact if_pos hz
  case nonReaders =>
    rintro (rfl | rfl | ⟨v, rfl⟩) <;> exact ⟨_, rfl⟩
  case accExcluded =>
    obtain ⟨ti, -, hexec⟩ := exec_of_isEdge hi s
    exact hexec.trans (transition_accOutOfRange ha)
  case periodExcluded =>
    have hp' := Bool.eq_false_iff.mp hp
    simp only [List.mem_cons, List.not_mem_nil, or_false] at hi
    rcases hi with rfl | rfl | rfl <;> exact if_neg hp'
  case tickExcluded =>
    rintro rfl hz hp
    exact (if_neg hz).trans (if_neg (Bool.eq_false_iff.mp hp))

/-! ### Who writes what -/

/-- Settles O53: of the instructions that complete, the ones not listed leave PERIOD, as does an EDGE with no detent. -/
theorem onlyTheseInstructionsWriteThePeriod : Obligations.OnlyTheseInstructionsWriteThePeriod := by
  intro i s t h hne
  rcases exec_cases h with ⟨hi, ti, -, ht⟩ | ⟨-, rfl⟩ | ⟨-, -, rfl⟩ | ⟨v, rfl, -⟩ | ⟨d, rfl, -⟩ | ⟨-, ht⟩ | ⟨rfl, -⟩
  · obtain ⟨-, ⟨v, -, rfl⟩ | ⟨v, d, -, -, rfl⟩⟩ := transition_next ht
    · exact absurd rfl hne
    · exact .inr (.inr (.inr (.inr ⟨hi, d, rfl⟩)))
  · exact absurd rfl hne
  · exact absurd rfl hne
  · exact .inr (.inr (.inl ⟨v, rfl⟩))
  · cases d with
    | cw => exact .inl rfl
    | ccw => exact .inr (.inl rfl)
  · obtain ⟨-, -, rfl⟩ := blink_next ht
    exact absurd rfl hne
  · exact .inr (.inr (.inr (.inl rfl)))

/-- A transition touches of the external state the indications alone, and returns its detent result. -/
theorem transition_frame {c : Config} {ti : Index} {s t : State} (h : transition c ti s = .next t) :
    t.env = { s.env with pendA := false, pendB := false } ∧ t.input = s.input ∧ t.booted = s.booted ∧
    ∃ d, t.history = .detent d :: s.history := by
  obtain ⟨-, ⟨v, -, rfl⟩ | ⟨v, d, -, -, rfl⟩⟩ := transition_next h
  · exact ⟨rfl, rfl, rfl, _, rfl⟩
  · exact ⟨rfl, rfl, rfl, _, rfl⟩

/-- Settles O55, by what each instruction that completes can have done. -/
theorem externalStateOwnership : Obligations.ExternalStateOwnership := by
  intro i s t h
  rcases exec_cases h with ⟨hi, ti, -, ht⟩ | ⟨rfl, rfl⟩ | ⟨rfl, -, rfl⟩ | ⟨v, rfl, rfl⟩ | ⟨d, hi, -, rfl⟩ | ⟨rfl, ht⟩ |
    ⟨rfl, rfl⟩
  · obtain ⟨henv, hinput, hbooted, d, hhist⟩ := transition_frame ht
    have hedge : i.isEdge ≠ false := Bool.ne_false_iff.mpr hi
    have htick : i ≠ .tick := by rintro rfl; cases hi
    rw [henv]
    exact ⟨rfl, rfl, hinput, fun hn => absurd hn hedge, fun _ => ⟨rfl, rfl⟩, fun hn => absurd hn htick,
      fun _ => hbooted, .inr ⟨_, hhist⟩⟩
  · exact ⟨rfl, rfl, rfl, fun _ => ⟨rfl, rfl⟩, fun _ => ⟨rfl, rfl⟩, nofun, fun _ => rfl, .inl rfl⟩
  · exact ⟨rfl, rfl, rfl, fun _ => ⟨rfl, rfl⟩, fun _ => ⟨rfl, rfl⟩, nofun, fun _ => rfl, .inr ⟨_, rfl⟩⟩
  · exact ⟨rfl, rfl, rfl, fun _ => ⟨rfl, rfl⟩, fun _ => ⟨rfl, rfl⟩, nofun, fun _ => rfl, .inl rfl⟩
  · have htick : i ≠ .tick := by cases d <;> rw [hi] <;> nofun
    exact ⟨rfl, rfl, rfl, fun _ => ⟨rfl, rfl⟩, fun _ => ⟨rfl, rfl⟩, fun hn => absurd hn htick, fun _ => rfl, .inl rfl⟩
  · obtain ⟨-, -, rfl⟩ := blink_next ht
    exact ⟨rfl, rfl, rfl, fun _ => ⟨rfl, rfl⟩, fun hn => absurd rfl hn, fun _ => rfl, fun _ => rfl, .inr ⟨_, rfl⟩⟩
  · exact ⟨rfl, rfl, rfl, fun _ => ⟨rfl, rfl⟩, fun _ => ⟨rfl, rfl⟩, nofun, fun hn => absurd rfl hn, .inl rfl⟩

/-! ### The word placed next -/

@[simp] theorem transitionIndex_decodeTi4 : ∀ ti : Index, (decodeTi4 ti).transitionIndex = some ti := by
  decide

theorem withoutArg_ok {i j : Instr} {op : BitVec 4} {arg : BitVec 32} (h : withoutArg i op arg = .ok j) : j = i := by
  unfold withoutArg at h
  split at h <;> cases h
  rfl

/-- An event word spells an operation, never a transition code (R69). -/
theorem transitionIndex_of_decodeEv36 {w : EventBits} {i : Instr} (h : decodeEv36 w = .ok i) :
    i.transitionIndex = none := by
  unfold decodeEv36 at h
  dsimp only at h
  split at h
  -- EDGE, SETP and the reserved op codes; the others take no argument
  case h_2 => split at h <;> cases h; rfl
  case h_4 => cases h; rfl
  case h_9 => cases h
  all_goals rw [withoutArg_ok h]; rfl

@[simp] theorem deliverNext_input (w : EventWord) (s : State) : (deliverNext w s).input = .word w :: s.input := by
  cases w <;> rfl

@[simp] theorem deliverNext_booted (w : EventWord) (s : State) : (deliverNext w s).booted = true := by
  cases w <;> rfl

@[simp] theorem deliverNext_env (w : EventWord) (s : State) : (deliverNext w s).env = s.env := by
  cases w <;> rfl

@[simp] theorem deliverNext_history (w : EventWord) (s : State) : (deliverNext w s).history = s.history := by
  cases w <;> rfl

@[simp] theorem deliverNext_acc (w : EventWord) (s : State) : (deliverNext w s).block.acc = s.block.acc := by
  cases w <;> rfl

@[simp] theorem deliverNext_period (w : EventWord) (s : State) : (deliverNext w s).block.period = s.block.period := by
  cases w <;> rfl

/-- A transition code finds its previous sample in HIST. -/
theorem deliverNext_hist_of_code {w : EventWord} {i : Instr} {ti : Index} (hd : decode w = .ok i)
    (hti : i.transitionIndex = some ti) (s : State) : (deliverNext w s).block.hist = previousSample ti := by
  cases w with
  | ti4 code =>
    cases hd
    rw [transitionIndex_decodeTi4] at hti
    cases hti
    rfl
  | ev36 bits => rw [transitionIndex_of_decodeEv36 hd] at hti; cases hti
  | malformed nbits bits => cases hd

/-- Any other word is delivered to the block as it was. -/
theorem deliverNext_block_of_operation {w : EventWord} {i : Instr} (hd : decode w = .ok i)
    (hti : i.transitionIndex = none) (s : State) : (deliverNext w s).block = s.block := by
  cases w with
  | ti4 code =>
    cases hd
    rw [transitionIndex_decodeTi4] at hti
    cases hti
  | ev36 bits => rfl
  | malformed nbits bits => rfl

theorem indexFormed_deliverNext (w : EventWord) (s : State) (l : List Input) :
    indexFormed w { deliverNext w s with input := l } = true := by
  rw [indexFormed_iff]
  rintro ti rfl
  rfl

/-- The step on a word delivered next that decodes: its instruction, on the state with the word taken. -/
theorem step_deliverNext {w : EventWord} {i : Instr} (hd : decode w = .ok i) (s : State) :
    step (deliverNext w s) = exec i { deliverNext w s with input := s.input } :=
  step_word (deliverNext_input w s) hd (.inl (deliverNext_booted w s)) (indexFormed_deliverNext w s _)

theorem step_illegalWord {s : State} {w : EventWord} {r : Reject} {rest : List Input}
    (h : s.input = .word w :: rest) (hd : decode w = .error r) : step s = .refused (.illegalWord r) := by
  simp only [step, fetch_word h, acceptWord, hd]

/-- Settles O45: the word placed next decodes or not, and the step follows the decoder. -/
theorem fetchWordIsPerformedNext : Obligations.FetchWordIsPerformedNext := by
  intro s nbits w
  unfold decodeTableWord State.withFetchWord
  cases hd : decode (tableWord nbits w) with
  | ok i =>
    refine ⟨?_, nofun⟩
    rintro _ ⟨⟩
    exact ⟨_, step_deliverNext hd s, rfl, deliverNext_env _ s, deliverNext_history _ s, deliverNext_acc _ s,
      deliverNext_period _ s, fun hti => deliverNext_block_of_operation hd hti s,
      fun ti hti => deliverNext_hist_of_code hd hti s⟩
  | error r => exact ⟨nofun, fun _ => ⟨r, step_illegalWord (deliverNext_input _ s) hd⟩⟩

end Sys2Proof.Machine

/-!
## Memory and accesses (20_memory.md)

Who reads and writes HIST and ACC; the deliveries of the closed system and the one path by which they write PERIOD; what
a step, and then a run, records as read of PERIOD.
-/

namespace Sys2Proof.Machine

/-! ### HIST and ACC -/

/-- Settles O54: of what such an instruction can have done, nothing reads HIST or ACC, so the guards it passed still
pass. -/
theorem histAndAccArePrivate : Obligations.HistAndAccArePrivate := by
  intro i s t h a hedge hreset hexec
  rcases exec_cases hexec with ⟨hi, -⟩ | ⟨rfl, rfl⟩ | ⟨rfl, hp, rfl⟩ | ⟨v, rfl, rfl⟩ | ⟨d, rfl, hp, rfl⟩ | ⟨rfl, ht⟩ |
    ⟨hi, -⟩
  · cases hedge.symm.trans hi
  · exact ⟨rfl, rfl, rfl⟩
  · exact ⟨rfl, rfl, if_pos hp⟩
  · exact ⟨rfl, rfl, rfl⟩
  · cases d with
    | cw => exact ⟨rfl, rfl, if_pos hp⟩
    | ccw => exact ⟨rfl, rfl, if_pos hp⟩
  · obtain ⟨hz, hp, rfl⟩ := blink_next ht
    exact ⟨rfl, rfl, (if_neg hz).trans (if_pos hp)⟩
  · exact absurd hi hreset

/-! ### The word of a decoded instruction -/

theorem arg_of_withoutArg_ok {i j : Instr} {op : BitVec 4} {arg : BitVec 32} (h : withoutArg i op arg = .ok j) :
    arg = 0 := by
  unfold withoutArg at h
  split at h
  · assumption
  · cases h

theorem eventBits_of_fields {w : EventBits} {op : BitVec 4} {arg : BitVec 32} (hop : (opField w).toNat = op.toNat)
    (harg : argField w = arg) : eventBits op arg = w := by
  rw [← BitVec.eq_of_toNat_eq hop, ← harg]
  exact eventBits_fields w

/-- An event word is the word of the operation it spells (R69). -/
theorem encode_of_decodeEv36 {w : EventBits} {i : Instr} (h : decodeEv36 w = .ok i) : encode i = .ev36 w := by
  unfold decodeEv36 at h
  dsimp only at h
  split at h
  -- EDGE, SETP and the reserved op codes; the others take no argument
  case h_2 hop =>
    split at h
    · next hzero =>
      cases h
      have harg := edgeArg_fields (argField w)
      rw [hzero] at harg
      exact congrArg EventWord.ev36 (eventBits_of_fields hop harg.symm)
    · cases h
  case h_4 hop => cases h; exact congrArg EventWord.ev36 (eventBits_of_fields hop rfl)
  case h_9 => cases h
  all_goals
    next hop =>
      rw [withoutArg_ok h]
      exact congrArg EventWord.ev36 (eventBits_of_fields hop (arg_of_withoutArg_ok h))

theorem encode_decodeTi4 : ∀ ti : Index, encode (decodeTi4 ti) = .ti4 ti := by
  decide

/-- A word that decodes is the word of its instruction. -/
theorem encode_of_decode {w : EventWord} {i : Instr} (h : decode w = .ok i) : encode i = w := by
  cases w with
  | ti4 ti => cases h; exact encode_decodeTi4 ti
  | ev36 bits => exact encode_of_decodeEv36 h
  | malformed nbits bits => cases h

/-! ### A step that completes, by its delivery -/

/-- A step that completes performs an instruction on the state with the delivery taken, or leaves the block and the
history. -/
theorem step_next {s t : State} (h : step s = .next t) :
    (∃ i rest, exec i { s with input := rest } = .next t) ∨ (t.block = s.block ∧ t.history = s.history) := by
  unfold step at h
  cases hf : fetch s with
  | run i u =>
    obtain ⟨x, rest, -, rfl⟩ := fetch_run hf
    rw [hf] at h
    exact .inl ⟨i, rest, h⟩
  | move u =>
    obtain ⟨hblock, -, hhist, -⟩ := fetch_move hf
    rw [hf] at h
    cases h
    exact .inr ⟨hblock, hhist⟩
  | refuse r =>
    rw [hf] at h
    cases h

/-- A delivered word that is performed decodes, and its instruction runs. -/
theorem step_word_next {s t : State} {w : EventWord} {rest : List Input} (hin : s.input = .word w :: rest)
    (h : step s = .next t) : ∃ i, decode w = .ok i ∧ exec i { s with input := rest } = .next t := by
  simp only [step, fetch_word hin, acceptWord] at h
  cases hd : decode w with
  | error r => simp [hd] at h
  | ok i =>
    simp only [hd] at h
    refine ⟨i, rfl, ?_⟩
    split_ifs at h
    exact h

/-- The handler's turn is the EDGE of the lines' sample, or nothing (R181). -/
theorem step_handler_next {s t : State} {rest : List Input} (hin : s.input = .handler :: rest)
    (h : step s = .next t) :
    exec (.edge (lineRead s)) { s with input := rest } = .next t ∨ t = { s with input := rest } := by
  simp only [step, fetch_handler hin, acceptHandler] at h
  split_ifs at h
  · exact .inl h
  · cases h; exact .inr rfl

/-! ### The closed system -/

/-- The words that the closed system delivers (R55, C3). -/
theorem closedSystem_word {w : EventWord} {i : Instr} (hd : decode w = .ok i)
    (hw : (Input.word w).closedSystem = true) : i = .tick ∨ i = .getp ∨ i = .nop ∨ i = .reset := by
  simp only [Input.closedSystem, hd] at hw
  cases i with
  | tick => exact .inl rfl
  | getp => exact .inr (.inl rfl)
  | nop => exact .inr (.inr (.inl rfl))
  | reset => exact .inr (.inr (.inr rfl))
  | _ => cases hw

/-- Settles O56, by the delivery: of the admitted words RESET alone writes PERIOD, the handler's EDGE needs a detent for
it, and the environment's moves leave the block. -/
theorem closedSystemHasOneWriterPath : Obligations.ClosedSystemHasOneWriterPath := by
  intro s t x rest hin hclosed h hne
  cases x with
  | word w =>
    obtain ⟨i, hd, hexec⟩ := step_word_next hin h
    have hwriter := onlyTheseInstructionsWriteThePeriod i _ t hexec hne
    rcases closedSystem_word hd hclosed with rfl | rfl | rfl | rfl
    case inr.inr.inr => exact .inl (congrArg Input.word (encode_of_decode hd).symm)
    all_goals simp [Instr.isEdge, Instr.transitionIndex] at hwriter
  | line a b =>
    rw [step_line hin] at h
    cases h
    exact absurd rfl hne
  | handler =>
    rcases step_handler_next hin h with hexec | rfl
    · have hwriter := onlyTheseInstructionsWriteThePeriod _ _ t hexec hne
      simp only [reduceCtorEq, false_or, exists_false] at hwriter
      exact .inr ⟨rfl, hwriter.2⟩
    · exact absurd rfl hne
  | envReset a b =>
    rw [step_envReset hin] at h
    cases h
    exact absurd rfl hne

/-! ### What is recorded as read -/

/-- An instruction returns nothing or one value, and what it returns as read is PERIOD as it found it (R48). -/
theorem exec_reads_period {i : Instr} {s t : State} (h : exec i s = .next t) :
    t.history = s.history ∨
    ∃ r, t.history = r :: s.history ∧ ∀ p, (r = .period p ∨ r = .tickRead p) → p = s.block.period := by
  rcases exec_cases h with ⟨-, ti, -, ht⟩ | ⟨-, rfl⟩ | ⟨-, -, rfl⟩ | ⟨v, -, rfl⟩ | ⟨d, -, -, rfl⟩ | ⟨-, ht⟩ | ⟨-, rfl⟩
  · obtain ⟨-, -, -, d, hhist⟩ := transition_frame ht
    exact .inr ⟨_, hhist, by simp⟩
  · exact .inl rfl
  · exact .inr ⟨_, rfl, by simp⟩
  · exact .inl rfl
  · exact .inl rfl
  · obtain ⟨-, -, rfl⟩ := blink_next ht
    exact .inr ⟨_, rfl, by simp⟩
  · exact .inl rfl

/-- Settles O57: a step is an instruction, which reads PERIOD of the block the delivery left alone, or records nothing. -/
theorem readsReturnTheCurrentPeriod : Obligations.ReadsReturnTheCurrentPeriod := by
  intro s t h
  rcases step_next h with ⟨i, rest, hexec⟩ | ⟨-, hhist⟩
  · exact exec_reads_period (s := { s with input := rest }) hexec
  · exact .inl hhist

/-! ### Runs -/

/-- A run of one step or more that completes: its first step and the rest. -/
theorem run_succ_next {n : Nat} {s t : State} (h : run (n + 1) s = .next t) :
    ∃ u, step s = .next u ∧ run n u = .next t := by
  simp only [run] at h
  cases hs : step s with
  | next u => rw [hs] at h; exact ⟨u, rfl, h⟩
  | fault f => rw [hs] at h; cases h
  | refused r => rw [hs] at h; cases h

/-- The invariant holds along every run from a state that meets it. -/
theorem run_keeps_inv {n : Nat} {s t : State} (hs : s.Inv reference) (h : run n s = .next t) : t.Inv reference := by
  induction n generalizing s with
  | zero => cases h; exact hs
  | succ n ih =>
    obtain ⟨u, hstep, hrun⟩ := run_succ_next h
    exact ih (stepKeepsTheInvariant s u hs hstep) hrun

/-- PERIOD is `p` in some state of the run of `n` steps from `s`. -/
def PeriodHeld (n : Nat) (s : State) (p : Ticks) : Prop :=
  ∃ k u, k ≤ n ∧ run k s = .next u ∧ u.block.period = p

theorem periodHeld_now (n : Nat) (s : State) : PeriodHeld n s s.block.period :=
  ⟨0, s, Nat.zero_le n, rfl, rfl⟩

theorem PeriodHeld.of_step {n : Nat} {s u : State} {p : Ticks} (hstep : step s = .next u) (h : PeriodHeld n u p) :
    PeriodHeld (n + 1) s p := by
  obtain ⟨k, v, hk, hrun, hp⟩ := h
  exact ⟨k + 1, v, Nat.succ_le_succ hk, (run_succ hstep).trans hrun, hp⟩

theorem PeriodHeld.legal {n : Nat} {s : State} {p : Ticks} (hs : s.Inv reference) (h : PeriodHeld n s p) :
    10 ≤ p.toNat ∧ p.toNat ≤ 3000 := by
  obtain ⟨k, u, -, hrun, rfl⟩ := h
  exact (periodLegal_iff reference _).mp (run_keeps_inv hs hrun).period

/-- Along a run the history only grows, and what is recorded as read is a value that PERIOD held (R47). -/
theorem run_reads_held_periods {n : Nat} {s t : State} (h : run n s = .next t) :
    ∃ new, t.history = new ++ s.history ∧ ∀ p, (.period p ∈ new ∨ .tickRead p ∈ new) → PeriodHeld n s p := by
  induction n generalizing s with
  | zero => cases h; exact ⟨[], rfl, by simp⟩
  | succ n ih =>
    obtain ⟨u, hstep, hrun⟩ := run_succ_next h
    obtain ⟨new, hnew, hheld⟩ := ih hrun
    have hlater : ∀ p, (.period p ∈ new ∨ .tickRead p ∈ new) → PeriodHeld (n + 1) s p :=
      fun p hp => (hheld p hp).of_step hstep
    rcases readsReturnTheCurrentPeriod s u hstep with hhist | ⟨r, hhist, hread⟩
    · exact ⟨new, hhist ▸ hnew, hlater⟩
    · refine ⟨new ++ [r], by rw [hnew, hhist, List.append_assoc]; rfl, fun p hp => ?_⟩
      simp only [List.mem_append, List.mem_singleton] at hp
      by_cases hr : r = .period p ∨ r = .tickRead p
      · exact hread p hr ▸ periodHeld_now (n + 1) s
      · obtain ⟨hget, htick⟩ := not_or.mp hr
        exact hlater p (hp.imp (Or.resolve_right · (Ne.symm hget)) (Or.resolve_right · (Ne.symm htick)))

/-- Settles O58: what was read was held within the run, and every state of a run from a legal one is legal. -/
theorem noTornRead : Obligations.NoTornRead := by
  intro n s t h
  obtain ⟨new, hnew, hheld⟩ := run_reads_held_periods h
  exact ⟨new, hnew, fun p hp => ⟨hheld p hp, fun hs => (hheld p hp).legal hs⟩⟩

end Sys2Proof.Machine

/-!
## Encoding (30_encoding.md)

The round trip of the decoder and the encoder; the decoder held against the rows of the opcode table, and against the
fields read by division; EDGE as the transition code of its index; the index and the step in bits; and scripts, which
run to their end.
-/

namespace Sys2Proof.Machine

/-! ### Decoder and encoder -/

theorem decode_encode_edge (s : Sample) : decode (encode (.edge s)) = .ok (.edge s) := by
  simp [encode, decode, decodeEv36]

theorem decode_encode_setp (v : Ticks) : decode (encode (.setp v)) = .ok (.setp v) := by
  simp [encode, decode, decodeEv36]

/-- Settles O2, by the instruction: its word is one literal, or holds its operand in a field of the argument. -/
theorem decodeInvertsEncode : Obligations.DecodeInvertsEncode := by
  intro i
  cases i with
  | edge s => exact decode_encode_edge s
  | setp v => exact decode_encode_setp v
  | _ => rfl

/-- Settles O3, by the format of the word: a code, or an event word that is its two fields. -/
theorem encodeInvertsDecode : Obligations.EncodeInvertsDecode :=
  fun _ _ => encode_of_decode

/-- Settles O1. The words are those of V29 and V30, so each side is one literal. -/
theorem specWordsDecode : Obligations.SpecWordsDecode :=
  ⟨rfl, rfl, rfl, rfl, rfl, rfl, rfl, rfl, rfl, rfl, rfl, rfl, rfl, rfl, rfl⟩

/-! ### The rows of the opcode table -/

/-- Every instruction's word is covered by the instruction's own row. -/
theorem tableRow_encode : ∀ i : Instr, Laws.TableRow.Statement i
  | .t00 => Laws.TableRow.t00
  | .t01 => Laws.TableRow.t01
  | .t02 => Laws.TableRow.t02
  | .t03 => Laws.TableRow.t03
  | .t04 => Laws.TableRow.t04
  | .t05 => Laws.TableRow.t05
  | .t06 => Laws.TableRow.t06
  | .t07 => Laws.TableRow.t07
  | .t08 => Laws.TableRow.t08
  | .t09 => Laws.TableRow.t09
  | .t10 => Laws.TableRow.t10
  | .t11 => Laws.TableRow.t11
  | .t12 => Laws.TableRow.t12
  | .t13 => Laws.TableRow.t13
  | .t14 => Laws.TableRow.t14
  | .t15 => Laws.TableRow.t15
  | .nop => Laws.TableRow.nop
  | .edge s => Laws.TableRow.edge s
  | .getp => Laws.TableRow.getp
  | .setp v => Laws.TableRow.setp v
  | .applyCw => Laws.TableRow.applyCw
  | .applyCcw => Laws.TableRow.applyCcw
  | .tick => Laws.TableRow.tick
  | .reset => Laws.TableRow.reset

/-- A row that covers a code is the row of that code. -/
theorem mnemonic_of_covers_ti4 :
    ∀ ti : Index, ∀ r ∈ opcodeTable, r.covers (.ti4 ti) = true → (decodeTi4 ti).mnemonic = r.mnemonic := by
  decide

theorem format_of_mem_transitionRows : ∀ r ∈ transitionRows, r.format = .ti4 := by
  decide

theorem covers_ev36_iff (r : OpRow) (w : EventBits) :
    r.covers (.ev36 w) = true ↔ r.format = .ev36 ∧ w.toNat &&& r.mask = r.pattern := by
  simp [OpRow.covers]

/-- The mask-and-match test of a row, on words. -/
theorem and_eq_of_masked {w : EventBits} {mask pattern : Nat} (h : w.toNat &&& mask = pattern) :
    w &&& BitVec.ofNat 36 mask = BitVec.ofNat 36 pattern := by
  rw [← h, BitVec.ofNat_and, BitVec.ofNat_toNat, BitVec.setWidth_eq]

/-- A test of every bit fixes the word. -/
theorem ev36_of_masked_all {w : EventBits} {pattern : Nat} (h : w.toNat &&& 0xFFFFFFFFF = pattern) :
    EventWord.ev36 (BitVec.ofNat 36 pattern) = .ev36 w := by
  rw [← and_eq_of_masked h]
  exact congrArg EventWord.ev36 BitVec.and_allOnes

theorem opField_and (v w : EventBits) : opField (v &&& w) = opField v &&& opField w :=
  BitVec.extractLsb'_and

theorem argField_and (v w : EventBits) : argField (v &&& w) = argField v &&& argField w :=
  BitVec.extractLsb'_and

theorem edgeZeroField_and (a b : BitVec 32) : edgeZeroField (a &&& b) = edgeZeroField a &&& edgeZeroField b :=
  BitVec.extractLsb'_and

/-- The row SETP tests op alone. -/
theorem encode_setp_of_masked {w : EventBits} (h : w.toNat &&& 0xF00000000 = 0x300000000) :
    encode (.setp (argField w)) = .ev36 w := by
  have hop := congrArg opField (and_eq_of_masked h)
  rw [opField_and] at hop
  have hop3 : opField w = 0x3 := BitVec.and_allOnes.symm.trans hop
  exact congrArg EventWord.ev36 (eventBits_of_fields (congrArg BitVec.toNat hop3) rfl)

/-- The row EDGE tests op and the bits of the argument above the sample. -/
theorem encode_edge_of_masked {w : EventBits} (h : w.toNat &&& 0xFFFFFFFFC = 0x100000000) :
    encode (.edge (sampleField (argField w))) = .ev36 w := by
  have hop := congrArg opField (and_eq_of_masked h)
  have hzero := congrArg (edgeZeroField ∘ argField) (and_eq_of_masked h)
  rw [opField_and] at hop
  simp only [Function.comp_apply, argField_and, edgeZeroField_and] at hzero
  have hop1 : opField w = 0x1 := BitVec.and_allOnes.symm.trans hop
  have hzero0 : edgeZeroField (argField w) = 0 := BitVec.and_allOnes.symm.trans hzero
  have harg := edgeArg_fields (argField w)
  rw [hzero0] at harg
  exact congrArg EventWord.ev36 (eventBits_of_fields (congrArg BitVec.toNat hop1) harg.symm)

/-- A row that covers an event word is the row of an operation with that word. -/
theorem operation_of_covers_ev36 {r : OpRow} (hr : r ∈ opcodeTable) {w : EventBits} (h : r.covers (.ev36 w) = true) :
    ∃ i : Instr, encode i = .ev36 w ∧ i.mnemonic = r.mnemonic := by
  obtain ⟨hformat, hmask⟩ := (covers_ev36_iff r w).mp h
  rcases List.mem_append.mp hr with ht | ho
  · cases (format_of_mem_transitionRows r ht).symm.trans hformat
  · simp only [operationRows, List.cons_append, List.nil_append, List.mem_cons, List.not_mem_nil, or_false] at ho
    rcases ho with rfl | rfl | rfl | rfl | rfl | rfl | rfl | rfl
    · exact ⟨.nop, ev36_of_masked_all hmask, rfl⟩
    · exact ⟨_, encode_edge_of_masked hmask, rfl⟩
    · exact ⟨.getp, ev36_of_masked_all hmask, rfl⟩
    · exact ⟨_, encode_setp_of_masked hmask, rfl⟩
    · exact ⟨.applyCw, ev36_of_masked_all hmask, rfl⟩
    · exact ⟨.applyCcw, ev36_of_masked_all hmask, rfl⟩
    · exact ⟨.tick, ev36_of_masked_all hmask, rfl⟩
    · exact ⟨.reset, ev36_of_masked_all hmask, rfl⟩

/-- Settles O4: a word that decodes is its instruction's word, which the instruction's row covers; a row that covers a
word fixes every bit of it but the operand's. -/
theorem decoderAgreesWithOpcodeTable : Obligations.DecoderAgreesWithOpcodeTable := by
  intro w
  constructor
  · intro i hd
    obtain ⟨r, hr, hname, hcovers⟩ := tableRow_encode i
    exact ⟨r, hr, encode_of_decode hd ▸ hcovers, hname⟩
  · intro r hr hcovers
    cases w with
    | ti4 ti => exact ⟨_, rfl, mnemonic_of_covers_ti4 ti r hr hcovers⟩
    | ev36 bits =>
      obtain ⟨i, hword, hname⟩ := operation_of_covers_ev36 hr hcovers
      exact ⟨i, hword ▸ decodeInvertsEncode i, hname⟩
    | malformed nbits bits => cases hcovers

/-! ### The event words that spell no operation -/

theorem opField_toNat (w : EventBits) : (opField w).toNat = w.toNat / 2 ^ 32 := by
  have hw := w.isLt
  rw [opField, BitVec.extractLsb'_toNat, Nat.shiftRight_eq_div_pow]
  omega

theorem argField_toNat (w : EventBits) : (argField w).toNat = w.toNat % 2 ^ 32 := by
  rw [argField, BitVec.extractLsb'_toNat, Nat.shiftRight_zero]

theorem edgeZeroField_toNat (arg : BitVec 32) : (edgeZeroField arg).toNat = arg.toNat / 4 := by
  have harg := arg.isLt
  rw [edgeZeroField, BitVec.extractLsb'_toNat, Nat.shiftRight_eq_div_pow]
  omega

/-- An operation without argument is rejected exactly for a non-zero argument (R69). -/
theorem withoutArg_error_iff (i : Instr) (op : BitVec 4) (arg : BitVec 32) :
    (∃ r, withoutArg i op arg = .error r) ↔ arg.toNat ≠ 0 := by
  unfold withoutArg
  split
  · next h => simp [h]
  · next h => simpa using fun h0 => h (BitVec.eq_of_toNat_eq h0)

/-- R70 over the two fields as numbers: a reserved op, or a non-zero bit in a field that must be 0. -/
def IllegalFields (op arg : Nat) : Prop :=
  (7 ≤ op ∧ op ≤ 14) ∨ (op = 1 ∧ arg / 4 ≠ 0) ∨
  ((op = 0 ∨ op = 2 ∨ op = 4 ∨ op = 5 ∨ op = 6 ∨ op = 15) ∧ arg ≠ 0)

/-- The decoder's verdict "invalid" is R70's. -/
theorem decodeEv36_error_iff (w : EventBits) :
    (∃ r, decodeEv36 w = .error r) ↔ IllegalFields (opField w).toNat (argField w).toNat := by
  have hlt := (opField w).isLt
  unfold decodeEv36 IllegalFields
  dsimp only
  split
  -- EDGE, SETP and the reserved op codes; the others take no argument
  case h_2 hop =>
    rw [hop, ← edgeZeroField_toNat]
    split
    · next h => simp [h]
    · next h => simpa using fun h0 => h (BitVec.eq_of_toNat_eq h0)
  case h_4 hop => simp [hop]
  case h_9 =>
    refine iff_of_true ⟨_, rfl⟩ (.inl ?_)
    simp only [imp_false] at *
    omega
  all_goals
    next hop =>
      rw [withoutArg_error_iff, hop]
      omega

/-- Settles O5: the decoder's fields are the quotient and the remainder, and a step refuses what the decoder rejects. -/
theorem illegalEventWordsAreRefused : Obligations.IllegalEventWordsAreRefused := by
  intro w op arg illegal
  have hreject : (∃ r, decode (.ev36 w) = .error r) ↔ illegal := by
    have h := decodeEv36_error_iff w
    rwa [opField_toNat, argField_toNat] at h
  refine ⟨hreject, fun hill s rest hin => ?_⟩
  obtain ⟨r, hr⟩ := hreject.mpr hill
  exact ⟨r, step_illegalWord hin hr⟩

/-! ### EDGE and the transition codes -/

/-- A transition code looks up its own index in every state (log entry 2). -/
theorem edgeIndex_of_transitionIndex {i : Instr} {ti : Index} (h : i.transitionIndex = some ti) (s : State) :
    edgeIndex i s = some ti := by
  cases i with
  | edge smp => cases h
  | _ => exact h

/-- Settles O18: both are the transition of the index that HIST and the sample form. -/
theorem edgeIsTheTransitionOfItsIndex : Obligations.EdgeIsTheTransitionOfItsIndex := by
  rintro s smp _ ⟨⟩
  rw [exec_of_edgeIndex (edgeIndex_edge smp s),
    exec_of_edgeIndex (edgeIndex_of_transitionIndex (transitionIndex_decodeTi4 _) s)]

/-! ### The index and the step in bits -/

/-- Settles O12, over the sixteen pairs of samples. -/
theorem indexAssembly : Obligations.IndexAssembly := by
  intro h s
  have hnum : (index h s).toNat = 4 * h.toNat + s.toNat := by revert h s; decide
  have hbits : (index h s).getLsbD 3 = h.getLsbD 1 ∧ (index h s).getLsbD 2 = h.getLsbD 0 ∧
      (index h s).getLsbD 1 = s.getLsbD 1 ∧ (index h s).getLsbD 0 = s.getLsbD 0 := by revert h s; decide
  obtain ⟨hpB, hpA, hcB, hcA⟩ := hbits
  have hmax : (index h s).toNat ≤ 15 := Nat.le_of_lt_succ (index h s).isLt
  exact ⟨hnum, hpB, hpA, hcB, hcA, hmax, previousSample_index h s, currentSample_index h s⟩

/-- Settles O8, over the sixteen entries. -/
theorem packedTableConstants : Obligations.PackedTableConstants :=
  ⟨by decide, rfl, rfl, rfl, rfl⟩

/-- A step of the table survives format ST2 and the sign extension (R64). -/
theorem toInt_sextStep_memRead : ∀ ti : Index, (sextStep (st2 (memRead ti))).toInt = memRead ti := by
  decide

theorem toInt_st2_memRead : ∀ ti : Index,
    st2 (memRead ti) ≠ 0b10 ∧ (st2 (memRead ti)).toInt = memRead ti := by
  decide

/-- Settles O11: a sum of a value in -3..+3 and a step stays within 4 bits (R122). -/
theorem signExtendedStepAddsExactly : Obligations.SignExtendedStepAddsExactly := by
  refine ⟨rfl, rfl, rfl, rfl, rfl, rfl, toInt_st2_memRead, fun a ti hlo hhi => ?_⟩
  obtain ⟨hstepLo, hstepHi⟩ := memRead_bounds ti
  rw [BitVec.toInt_add, toInt_sextStep_memRead]
  exact Int.bmod_eq_of_le (by omega) (by omega)

/-! ### The events of a script that passes the check -/

/-- A list with copies has one copy at least. -/
theorem mem_of_mem_copies {n : Nat} {l : List Instr} {i : Instr} (h : i ∈ copies n l) : n ≠ 0 ∧ i ∈ l := by
  induction n with
  | zero => cases h
  | succ n ih =>
    rcases List.mem_append.mp h with hi | hi
    · exact ⟨Nat.succ_ne_zero n, hi⟩
    · exact ⟨Nat.succ_ne_zero n, (ih hi).2⟩

/-- The check of a repetition that runs at all checks its body at the history where it starts. -/
theorem check_of_copiesWf {check : Sample → Bool} {after : Sample → Sample} {n : Nat} {h : Sample} (hn : n ≠ 0)
    (hwf : copiesWf check after n h = true) : check h = true := by
  cases n with
  | zero => exact absurd rfl hn
  | succ n =>
    obtain ⟨hcheck, -⟩ := (Bool.and_eq_true _ _).mp hwf
    exact hcheck

theorem cycle_events_are_edges : ∀ i ∈ cyclePlusEvents ++ cycleMinusEvents, i.transitionIndex = none := by
  decide

/-- A sequence of samples is a list of EDGEs (R73). -/
theorem transitionIndex_of_mem_edges {f : Bool × Bool → Sample} {ds : List (Bool × Bool)} {i : Instr}
    (hi : i ∈ ds.map fun d => .edge (f d)) : i.transitionIndex = none := by
  obtain ⟨d, -, rfl⟩ := List.mem_map.mp hi
  rfl

/-- The events of a script that passes the check are operations, never transition codes (R72). -/
theorem transitionIndex_of_mem_expand {sc : Script} {h : Sample} (hwf : sc.wf h = true) {i : Instr}
    (hi : i ∈ expand sc) : i.transitionIndex = none := by
  induction sc generalizing h with
  | done => cases hi
  | event j rest ih =>
    obtain ⟨hj, hrest⟩ := (Bool.and_eq_true _ _).mp hwf
    rcases List.mem_cons.mp hi with rfl | hi
    · exact Option.isNone_iff_eq_none.mp hj
    · exact ih hrest hi
  | cyclePlus rest ih =>
    rcases List.mem_append.mp hi with hi | hi
    · exact cycle_events_are_edges i (List.mem_append_left _ hi)
    · exact ih hwf hi
  | cycleMinus rest ih =>
    rcases List.mem_append.mp hi with hi | hi
    · exact cycle_events_are_edges i (List.mem_append_right _ hi)
    · exact ih hwf hi
  | rep n body rest ihBody ihRest =>
    obtain ⟨hcopies, hrest⟩ := (Bool.and_eq_true _ _).mp hwf
    rcases List.mem_append.mp hi with hi | hi
    · obtain ⟨hn, hi⟩ := mem_of_mem_copies hi
      exact ihBody (check_of_copiesWf hn hcopies) hi
    · exact ihRest hrest hi
  | seqAB ds rest ih =>
    obtain ⟨-, hrest⟩ := (Bool.and_eq_true _ _).mp hwf
    rcases List.mem_append.mp hi with hi | hi
    · exact transitionIndex_of_mem_edges hi
    · exact ih hrest hi
  | seqBA ds rest ih =>
    obtain ⟨-, hrest⟩ := (Bool.and_eq_true _ _).mp hwf
    rcases List.mem_append.mp hi with hi | hi
    · exact transitionIndex_of_mem_edges hi
    · exact ih hrest hi

/-! ### The run of a script -/

theorem histAfter_of_edgeIndex {i : Instr} {s : State} {ti : Index} (h : edgeIndex i s = some ti) :
    histAfter s.block.hist i = currentSample ti := by
  cases i with
  | edge smp => cases h; exact (currentSample_index _ smp).symm
  | _ => cases h <;> rfl

/-- HIST after an instruction is what the script's check expects of it (R21, R230). -/
theorem exec_hist {i : Instr} {s t : State} (h : exec i s = .next t) : t.block.hist = histAfter s.block.hist i := by
  rcases exec_cases h with ⟨-, ti, hti, ht⟩ | ⟨rfl, rfl⟩ | ⟨rfl, -, rfl⟩ | ⟨v, rfl, rfl⟩ | ⟨d, rfl, -, rfl⟩ |
    ⟨rfl, ht⟩ | ⟨rfl, rfl⟩
  · rw [histAfter_of_edgeIndex hti]
    obtain ⟨-, ⟨v, -, rfl⟩ | ⟨v, d, -, -, rfl⟩⟩ := transition_next ht <;> rfl
  · rfl
  · rfl
  · rfl
  · cases d <;> rfl
  · obtain ⟨-, -, rfl⟩ := blink_next ht
    rfl
  · rfl

theorem exec_keeps_booted {i : Instr} {s t : State} (h : exec i s = .next t) (hb : s.booted = true) :
    t.booted = true := by
  by_cases hi : i = .reset
  · subst hi
    cases h
    rfl
  · obtain ⟨-, -, -, -, -, -, hkeep, -⟩ := externalStateOwnership i s t h
    exact (hkeep hi).trans hb

theorem exec_input {i : Instr} {s t : State} (h : exec i s = .next t) : t.input = s.input := by
  obtain ⟨-, -, hinput, -⟩ := externalStateOwnership i s t h
  exact hinput

theorem exec_keeps_inv {i : Instr} {s t : State} (hs : s.Inv reference) (h : exec i s = .next t) : t.Inv reference :=
  execWith_keeps_inv reference_admitted hs (exec_eq_execWith_reference i s ▸ h)

/-- The word of an operation carries no index, so after the first RESET it is performed whatever HIST is. -/
theorem step_operation {i : Instr} (hi : i.transitionIndex = none) {s : State} {rest : List Input}
    (hin : s.input = .word (encode i) :: rest) (hb : s.booted = true) : step s = exec i { s with input := rest } := by
  refine step_word hin (decodeInvertsEncode i) (.inl hb) ((indexFormed_iff _ _).mpr fun ti hw => ?_)
  have hd := decodeInvertsEncode i
  rw [hw] at hd
  cases hd
  rw [transitionIndex_decodeTi4] at hi
  cases hi

/-- The words of operations run to the last, one step each. -/
theorem run_operations {l : List Instr} (hl : ∀ i ∈ l, i.transitionIndex = none) {s : State} {rest : List Input}
    (hin : s.input = (l.map encode).map .word ++ rest) (hb : s.booted = true) (hs : s.Inv reference) :
    ∃ t, run l.length s = .next t ∧ t.Inv reference ∧ t.input = rest ∧
      t.block.hist = histAfterAll s.block.hist l := by
  induction l generalizing s with
  | nil => exact ⟨s, rfl, hs, hin, rfl⟩
  | cons i l ih =>
    obtain ⟨hi, hl⟩ := List.forall_mem_cons.mp hl
    have htaken := hs.withInput ((l.map encode).map .word ++ rest)
    obtain ⟨u, hu⟩ := exec_next_of_legal i htaken.acc htaken.period
    have hstep : step s = .next u := (step_operation hi hin hb).trans hu
    have huinv := exec_keeps_inv htaken hu
    obtain ⟨t, hrun, hinv, hinput, hhist⟩ := ih hl (exec_input hu) (exec_keeps_booted hu hb) huinv
    rw [exec_hist hu] at hhist
    exact ⟨t, (run_succ hstep).trans hrun, hinv, hinput, hhist⟩

/-- Settles O60: the check leaves operations only, and in a legal booted state those complete one after the other. -/
theorem wellFormedScriptsRunToTheEnd : Obligations.WellFormedScriptsRunToTheEnd := by
  intro sc s hb hs hwf
  have hops : ∀ i ∈ expand sc, i.transitionIndex = none := fun i hi => transitionIndex_of_mem_expand hwf hi
  exact run_operations hops (s := s.loadScript sc) rfl hb (hs.withInput _)

end Sys2Proof.Machine

/-!
## The decoder table (40_quadrature_decoder_lut.md)

The entries of the step table, its closed form and properties; the phase of a sample, by which the steps of a walk
telescope; and the sixteen transition codes, each the transition of its own index.
-/

namespace Sys2Proof.Machine

/-! ### The step table -/

/-- Settles O6: R94 and the model's table, entry by entry. -/
theorem stepTableEntries : Obligations.StepTableEntries :=
  ⟨rfl, rfl, rfl, rfl, rfl, rfl, rfl, rfl, rfl, rfl, rfl, rfl, rfl, rfl, rfl, rfl⟩

/-- Settles O7, over the sixteen indices, as R95 itself checks the formula. -/
theorem stepTableClosedForm : Obligations.StepTableClosedForm := by
  unfold Obligations.StepTableClosedForm
  decide

/-- R112 (c): undoing a transition negates its step. -/
theorem memRead_index_swap : ∀ p q : Sample, memRead (index q p) = -memRead (index p q) := by
  decide

/-- Settles O9: totality and antisymmetry as lemmas, the counts and the two cycles by evaluation. -/
theorem stepTableProperties : Obligations.StepTableProperties :=
  ⟨memRead_range, rfl, rfl, rfl, memRead_index_swap, rfl, rfl⟩

/-! ### Closed walks -/

/-- The place of a sample in the positive cycle 0, 2, 3, 1 (R112 (d)). -/
def phase (smp : Sample) : Int :=
  match smp with
  | 0 => 0
  | 2 => 1
  | 3 => 2
  | 1 => 3

/-- Unless both lines differ, a step is the change of phase modulo 4; a double transition is off by 2. -/
theorem memRead_modEq_phase : ∀ h smp : Sample, smp ≠ ~~~h →
    memRead (index h smp) ≡ phase smp - phase h [ZMOD 4] := by
  decide

/-- The changes of phase telescope, so the steps of a walk sum to the change from its start to its end. -/
theorem sum_stepsFrom_modEq_phase {h : Sample} {l : List Sample} (hl : noDouble h l = true) :
    (stepsFrom h l).sum ≡ phase (l.getLastD h) - phase h [ZMOD 4] := by
  induction l generalizing h with
  | nil => simp [stepsFrom]
  | cons smp rest ih =>
    obtain ⟨hfirst, hrest⟩ : smp ≠ ~~~h ∧ noDouble smp rest = true := by simpa [noDouble] using hl
    have hsum := (memRead_modEq_phase h smp hfirst).add (ih hrest)
    rw [stepsFrom, List.sum_cons, List.getLastD_cons]
    rwa [add_comm (phase smp - phase h), sub_add_sub_cancel] at hsum

/-- Settles O10: a closed walk ends in the phase in which it starts. -/
theorem closedWalkSumsToMultipleOfFour : Obligations.ClosedWalkSumsToMultipleOfFour := by
  intro h l hl hclosed
  have hsum := sum_stepsFrom_modEq_phase hl
  rw [hclosed, sub_self] at hsum
  exact Int.modEq_zero_iff_dvd.mp hsum

/-! ### What a transition leaves -/

/-- Below the threshold a transition stores the sum and keeps PERIOD (R130, R131). -/
theorem transition_stores_sum {c : Config} {ti : Index} {s : State} (ha : accLegal c s.block.acc = true)
    (hpos : s.block.acc.toInt + memRead ti ≠ c.threshold) (hneg : s.block.acc.toInt + memRead ti ≠ -c.threshold) :
    transition c ti s = .next (s.afterEdge (currentSample ti) (BitVec.ofInt 4 (s.block.acc.toInt + memRead ti))
      s.block.period none) := by
  rw [transition_eq, if_pos ha, detect_none c _ hpos hneg]

/-- A transition that emits a detent clears ACC and adjusts PERIOD (R131, R136). -/
theorem transition_emits {c : Config} {ti : Index} {s : State} {d : Detent} (ha : accLegal c s.block.acc = true)
    (hp : periodLegal c s.block.period = true) (hd : detect c (s.block.acc.toInt + memRead ti) = (0, some d)) :
    transition c ti s = .next (s.afterEdge (currentSample ti) 0
      (BitVec.ofNat 32 (adjustedPeriod c d s.block.period.toNat)) (some d)) := by
  rw [transition_eq, if_pos ha, hd]
  exact if_pos hp

/-! ### The ranges and the rate updates at the reference values (R6) -/

theorem accLegal_reference_iff (a : Acc) : accLegal reference a = true ↔ -3 ≤ a.toInt ∧ a.toInt ≤ 3 := by
  have hthr : reference.threshold = 4 := rfl
  rw [accLegal_iff, hthr]
  omega

theorem periodLegal_reference_iff (p : Ticks) :
    periodLegal reference p = true ↔ 10 ≤ p.toNat ∧ p.toNat ≤ 3000 :=
  periodLegal_iff reference p

/-- At a value not below FLOOR only the upper bound of `CLAMP` can bind (R150). -/
theorem clamp_of_floor_le {c : Config} {v : Nat} (h : c.floor ≤ v) : clamp c v = min v c.ceiling := by
  rw [clamp, max_eq_left h]

/-- Up to CEILING the clamp of `APPLY_CW` never binds: nine tenths of 11 or more is 10 or more (R151). -/
theorem shrunkPeriod_reference {p : Nat} (hhi : p ≤ 3000) :
    shrunkPeriod reference p = if p > 10 then p - p / 10 else p := by
  by_cases hp : p > 10
  · have hclamp : clamp reference (p - p / 10) = min (p - p / 10) 3000 :=
      clamp_of_floor_le (show 10 ≤ p - p / 10 by omega)
    rw [if_pos hp, ← min_eq_left (show p - p / 10 ≤ 3000 by omega), ← hclamp]
    exact if_pos hp
  · rw [if_neg hp]
    exact if_neg hp

/-- Only the upper bound of the clamp of `APPLY_CCW` can bind (R152). -/
theorem grownPeriod_reference {p : Nat} (hlo : 10 ≤ p) :
    grownPeriod reference p = if p < 3000 then min (p + p / 10) 3000 else p := by
  by_cases hp : p < 3000
  · have hclamp : clamp reference (p + p / 10) = min (p + p / 10) 3000 :=
      clamp_of_floor_le (show 10 ≤ p + p / 10 by omega)
    rw [if_pos hp, ← hclamp]
    exact if_pos hp
  · rw [if_neg hp]
    exact if_neg hp

/-! ### The transition codes -/

section Codes

variable {i : Instr} {p q : Sample} {k : Int}

/-- What R96 to R111 say of a transition code: the two samples of its index, and its step. -/
structure IsCode (i : Instr) (p q : Sample) (k : Int) : Prop where
  index_eq : i.transitionIndex = some (index p q)
  step_eq : memRead (index p q) = k

/-- A list of codes is checked row by row. -/
theorem isCode_of_mem {rows : List (Instr × Sample × Sample)} (hmem : (i, p, q) ∈ rows)
    (hrows : ∀ row ∈ rows, row.1.transitionIndex = some (index row.2.1 row.2.2) ∧
      memRead (index row.2.1 row.2.2) = k) : IsCode i p q k :=
  let ⟨hindex, hstep⟩ := hrows _ hmem
  ⟨hindex, hstep⟩

/-- A code is the transition of its index, whatever HIST is (log entry 2). -/
theorem IsCode.exec_eq (h : IsCode i p q k) (s : State) : exec i s = transition reference (index p q) s :=
  exec_of_edgeIndex (edgeIndex_of_transitionIndex h.index_eq s)

/-- A code whose sum stays below the threshold. -/
theorem IsCode.exec_stores_sum (h : IsCode i p q k) {s : State}
    (hacc : -3 ≤ s.block.acc.toInt ∧ s.block.acc.toInt ≤ 3)
    (hsum : -3 ≤ s.block.acc.toInt + k ∧ s.block.acc.toInt + k ≤ 3) :
    exec i s = .next (s.afterEdge q (BitVec.ofInt 4 (s.block.acc.toInt + k)) s.block.period none) := by
  obtain rfl := h.step_eq
  have hthr : (reference.threshold : Int) = 4 := rfl
  have hstores := transition_stores_sum (c := reference) (ti := index p q) ((accLegal_reference_iff _).mpr hacc)
    (by omega) (by omega)
  rwa [currentSample_index, ← h.exec_eq] at hstores

/-- A code whose sum is a detent. -/
theorem IsCode.exec_emits (h : IsCode i p q k) {s : State} {d : Detent}
    (hacc : -3 ≤ s.block.acc.toInt ∧ s.block.acc.toInt ≤ 3)
    (hper : 10 ≤ s.block.period.toNat ∧ s.block.period.toNat ≤ 3000)
    (hd : detect reference (s.block.acc.toInt + k) = (0, some d)) :
    exec i s = .next (s.afterEdge q 0
      (BitVec.ofNat 32 (adjustedPeriod reference d s.block.period.toNat)) (some d)) := by
  obtain rfl := h.step_eq
  have hemits := transition_emits ((accLegal_reference_iff _).mpr hacc) ((periodLegal_reference_iff _).mpr hper) hd
  rwa [currentSample_index, ← h.exec_eq] at hemits

end Codes

/-- Settles O15: a step of 0 stores ACC as it was, at every legal ACC. -/
theorem holdAndDoubleTransitions : Obligations.HoldAndDoubleTransitions := by
  intro i p q hmem
  have hcode : IsCode i p q 0 := isCode_of_mem hmem (by decide)
  refine ⟨hcode.index_eq, hcode.step_eq, fun s hlo hhi => ?_⟩
  have hexec := hcode.exec_stores_sum ⟨hlo, hhi⟩ (by omega)
  rwa [add_zero, BitVec.ofInt_toInt] at hexec

/-- Settles O16: the sum stays at 3 or below, or is 4 and a CW. -/
theorem positiveTransitions : Obligations.PositiveTransitions := by
  intro i p q hmem
  have hcode : IsCode i p q 1 := isCode_of_mem hmem (by decide)
  refine ⟨hcode.index_eq, hcode.step_eq, fun s => ⟨fun hlo hhi => ?stores, fun hacc hlo hhi => ?emits⟩⟩
  case stores => exact hcode.exec_stores_sum (by omega) (by omega)
  case emits =>
    have hd : detect reference (s.block.acc.toInt + 1) = (0, some .cw) := by rw [hacc]; rfl
    rw [hcode.exec_emits (by omega) ⟨hlo, hhi⟩ hd, adjustedPeriod, shrunkPeriod_reference hhi]

/-- Settles O17: the sum stays at -3 or above, or is -4 and a CCW. -/
theorem negativeTransitions : Obligations.NegativeTransitions := by
  intro i p q hmem
  have hcode : IsCode i p q (-1) := isCode_of_mem hmem (by decide)
  refine ⟨hcode.index_eq, hcode.step_eq, fun s => ⟨fun hlo hhi => ?stores, fun hacc hlo hhi => ?emits⟩⟩
  case stores => exact hcode.exec_stores_sum (by omega) (by omega)
  case emits =>
    have hd : detect reference (s.block.acc.toInt + -1) = (0, some .ccw) := by rw [hacc]; rfl
    rw [hcode.exec_emits (by omega) ⟨hlo, hhi⟩ hd, adjustedPeriod, grownPeriod_reference hlo]

end Sys2Proof.Machine

/-!
## The step accumulator (41_step_accumulator.md)

A transition at legal registers, with or without a detent; the detents returned along a run; the sum of the steps over
EDGEs without a detent; and jitter below the threshold.
-/

namespace Sys2Proof.Machine

/-! ### A transition at legal registers -/

/-- Where DETECT emits nothing it keeps the sum (R130). -/
theorem eq_of_detect_none {c : Config} {a v : Int} (h : detect c a = (v, none)) : v = a := by
  rcases detect_cases c a with ⟨-, hd⟩ | ⟨-, -, hd⟩ | ⟨-, -, hd⟩
  all_goals cases hd.symm.trans h
  rfl

/-- A transition at legal registers completes and leaves them legal; if it emits nothing, ACC takes the step and PERIOD
stays. -/
theorem transition_of_legal {c : Config} (hc : c.admitted = true) (ti : Index) {s : State}
    (ha : accLegal c s.block.acc = true) (hp : periodLegal c s.block.period = true) :
    ∃ acc p d, transition c ti s = .next (s.afterEdge (currentSample ti) acc p d) ∧
      accLegal c acc = true ∧ periodLegal c p = true ∧
      (d = none → acc.toInt = s.block.acc.toInt + memRead ti ∧ p = s.block.period) := by
  rcases hd : detect c (s.block.acc.toInt + memRead ti) with ⟨v, _ | d⟩
  all_goals
    obtain ⟨hvlo, hvhi⟩ := detect_stores_legal hc ha hd
    have hacc := accLegal_ofInt hc hvlo hvhi
    rw [transition_eq, if_pos ha, hd]
  · have hsum : (BitVec.ofInt 4 v).toInt = s.block.acc.toInt + memRead ti :=
      (toInt_ofInt_acc hc hvlo hvhi).trans (eq_of_detect_none hd)
    exact ⟨_, _, none, rfl, hacc, hp, fun _ => ⟨hsum, rfl⟩⟩
  · obtain ⟨hlo, hhi⟩ := (periodLegal_iff c _).mp hp
    obtain ⟨hlo', hhi'⟩ := adjustedPeriod_bounds d hlo hhi
    exact ⟨_, _, some d, if_pos hp, hacc, periodLegal_ofNat hc hlo' hhi', nofun⟩

/-! ### The detents returned along a run (R28) -/

@[simp] theorem detents_cons_detent (d : Option Detent) (h : List Report) :
    detents (.detent d :: h) = d.toList ++ detents h := by
  cases d <;> rfl

/-- A run adds to the detents returned so far, and takes none back. -/
theorem detents_suffix_of_run {n : Nat} {s t : State} (h : run n s = .next t) :
    detents s.history <:+ detents t.history := by
  obtain ⟨new, hnew, -⟩ := run_reads_held_periods h
  exact ⟨detents new, by rw [hnew, detents, detents, detents, List.filterMap_append]⟩

/-! ### A delivered EDGE -/

/-- The step on a delivered EDGE is the transition of the index that HIST and its sample form (R91). -/
theorem step_edge {s : State} {smp : Sample} {l : List Sample} {rest : List Input} (hb : s.booted = true)
    (hin : s.input = edgeInputs (smp :: l) ++ rest) :
    step s = transition reference (index s.block.hist smp) { s with input := edgeInputs l ++ rest } :=
  (step_operation rfl hin hb).trans (exec_of_edgeIndex rfl)

/-! ### Sums of steps -/

/-- EDGEs from legal registers run to the last. If no detent is among them, none was returned by the first, and the sum
is its step and the sum of the rest. -/
theorem run_edges {l : List Sample} {s : State} {rest : List Input} (hb : s.booted = true)
    (ha : accLegal reference s.block.acc = true) (hp : periodLegal reference s.block.period = true)
    (hin : s.input = edgeInputs l ++ rest) :
    ∃ t, run l.length s = .next t ∧ t.input = rest ∧ t.block.hist = l.getLastD s.block.hist ∧
      (detents t.history = detents s.history →
        t.block.acc.toInt = s.block.acc.toInt + (stepsFrom s.block.hist l).sum ∧ t.block.period = s.block.period) := by
  induction l generalizing s with
  | nil => exact ⟨s, rfl, hin, rfl, fun _ => ⟨(add_zero _).symm, rfl⟩⟩
  | cons smp l ih =>
    obtain ⟨acc, p, d, hedge, hacc, hper, hnone⟩ := transition_of_legal reference_admitted (index s.block.hist smp)
      (s := { s with input := edgeInputs l ++ rest }) ha hp
    rw [currentSample_index] at hedge
    obtain ⟨t, hrun, hinput, hhist, hsum⟩ := ih
      (s := State.afterEdge { s with input := edgeInputs l ++ rest } smp acc p d) hb hacc hper rfl
    refine ⟨t, (run_succ ((step_edge hb hin).trans hedge)).trans hrun, hinput, hhist.trans List.getLastD_cons.symm,
      fun hquiet => ?_⟩
    obtain rfl : d = none := by
      have hlen := (detents_suffix_of_run hrun).length_le
      cases d with
      | none => rfl
      | some d => simp [hquiet] at hlen
    obtain ⟨hfirst, rfl⟩ := hnone rfl
    obtain ⟨hrest, hperiod⟩ := hsum hquiet
    refine ⟨?_, hperiod⟩
    rw [hrest, State.afterEdge_acc, hfirst, State.afterEdge_hist, stepsFrom, List.sum_cons, add_assoc]

/-- Settles O23: the ranges of R23 and R25 are the legal registers. -/
theorem accumulatorCountsSteps : Obligations.AccumulatorCountsSteps := by
  intro l s rest hb halo hahi hplo hphi hin
  exact run_edges hb ((accLegal_reference_iff _).mpr ⟨halo, hahi⟩) ((periodLegal_reference_iff _).mpr ⟨hplo, hphi⟩) hin

/-! ### Jitter below the threshold -/

/-- The block is its three registers, whole (R20); ACC is compared as an integer. -/
theorem Block.eq_of_registers {b b' : Block} (hhist : b.hist = b'.hist) (hacc : b.acc.toInt = b'.acc.toInt)
    (hperiod : b.period = b'.period) : b = b' := by
  cases b
  cases b'
  rw [Block.mk.injEq]
  exact ⟨hhist, BitVec.eq_of_toInt_eq hacc, hperiod⟩

section Bounce

variable {s : State} {smp : Sample} {rest : List Input} (hb : s.booted = true)
  (hacc : accLegal reference s.block.acc = true)
  (hsum : -(reference.threshold : Int) < s.block.acc.toInt + memRead (index s.block.hist smp) ∧
    s.block.acc.toInt + memRead (index s.block.hist smp) < reference.threshold)

include hb hacc hsum

/-- An EDGE whose sum stays below the threshold adds its step to ACC and returns no detent; it does not read PERIOD. -/
theorem step_edge_below_threshold {l : List Sample} (hin : s.input = edgeInputs (smp :: l) ++ rest) :
    ∃ t, step s = .next t ∧ t.booted = true ∧ t.input = edgeInputs l ++ rest ∧ t.block.hist = smp ∧
      t.block.acc.toInt = s.block.acc.toInt + memRead (index s.block.hist smp) ∧
      t.block.period = s.block.period ∧ detents t.history = detents s.history := by
  obtain ⟨hlo, hhi⟩ := hsum
  have hstores := transition_stores_sum (s := { s with input := edgeInputs l ++ rest }) hacc hhi.ne hlo.ne'
  exact ⟨_, (step_edge hb hin).trans hstores, hb, rfl, currentSample_index s.block.hist smp,
    toInt_ofInt_acc reference_admitted hlo hhi, rfl, rfl⟩

/-- An EDGE to a sample and the EDGE back: the second step undoes the first (R112 (c)). -/
theorem run_there_and_back (hin : s.input = edgeInputs [smp, s.block.hist] ++ rest) :
    ∃ t, run 2 s = .next t ∧ t.block = s.block ∧ t.booted = true ∧ t.input = rest ∧
      detents t.history = detents s.history := by
  obtain ⟨u, hthere, hub, huin, huhist, huacc, huper, huquiet⟩ := step_edge_below_threshold hb hacc hsum hin
  have hundone : u.block.acc.toInt + memRead (index u.block.hist s.block.hist) = s.block.acc.toInt := by
    rw [huhist, huacc, memRead_index_swap s.block.hist smp, add_neg_cancel_right]
  obtain ⟨t, hback, htb, htin, hthist, htacc, htper, htquiet⟩ :=
    step_edge_below_threshold hub ((accLegal_iff _ _).mpr (huacc ▸ hsum)) (hundone ▸ (accLegal_iff _ _).mp hacc) huin
  have hblock : t.block = s.block :=
    Block.eq_of_registers hthist (htacc.trans hundone) (htper.trans huper)
  exact ⟨t, (run_succ hthere).trans (run_succ hback), hblock, htb, htin, htquiet.trans huquiet⟩

/-- Any number of such pairs, each from the block in which the one before it began. -/
theorem run_bounces (n : Nat) (hin : s.input = edgeInputs (List.replicate n [smp, s.block.hist]).flatten ++ rest) :
    ∃ t, run (2 * n) s = .next t ∧ t.block = s.block ∧ detents t.history = detents s.history := by
  induction n generalizing s with
  | zero => exact ⟨s, rfl, rfl, rfl⟩
  | succ n ih =>
    obtain ⟨u, hpair, hblock, hbooted, hinput, hquiet⟩ := run_there_and_back hb hacc hsum hin
    obtain ⟨t, hrun, hblock', hquiet'⟩ := ih hbooted (hblock ▸ hacc) (hblock ▸ hsum) (hblock ▸ hinput)
    refine ⟨t, ?_, hblock'.trans hblock, hquiet'.trans hquiet⟩
    rw [Nat.mul_succ, Nat.add_comm, run_add, hpair]
    exact hrun

end Bounce

/-- Settles O24: the premise on the first step is what keeps every later one below the threshold. -/
theorem bounceImmunity : Obligations.BounceImmunity := by
  intro n s smp rest hb halo hahi hslo hshi hin
  exact run_bounces hb ((accLegal_reference_iff _).mpr ⟨halo, hahi⟩)
    ⟨Int.lt_of_add_one_le hslo, Int.lt_add_one_of_le hshi⟩ n hin

end Sys2Proof.Machine

/-!
## The detent event generator (42_detent_event_generator.md)

EDGE as the transition code of its index, with its three branches; the acknowledge; short runs of EDGEs, which emit no
detent, and the EDGE after one that does.
-/

namespace Sys2Proof.Machine

/-! ### EDGE in its three branches -/

/-- The word of R69: op 0x1, the sample in arg[1:0]. -/
theorem encode_edge : ∀ smp : Sample, encode (.edge smp) = .ev36 (BitVec.ofNat 36 (0x100000000 + smp.toNat)) := by
  decide

/-- Every pair of samples has its transition code, with the step of the table (R63, R71). -/
theorem isCode_decodeTi4 (p q : Sample) : IsCode (decodeTi4 (index p q)) p q (memRead (index p q)) :=
  ⟨transitionIndex_decodeTi4 _, rfl⟩

section Edge

variable {s : State} {smp : Sample} (hacc : -3 ≤ s.block.acc.toInt ∧ s.block.acc.toInt ≤ 3)

include hacc

/-- An EDGE whose sum stays below the threshold stores the sum and does not read PERIOD (R131). -/
theorem exec_edge_stores_sum
    (hsum : -3 ≤ s.block.acc.toInt + memRead (index s.block.hist smp) ∧
      s.block.acc.toInt + memRead (index s.block.hist smp) ≤ 3) :
    exec (.edge smp) s = .next (s.afterEdge smp
      (BitVec.ofInt 4 (s.block.acc.toInt + memRead (index s.block.hist smp))) s.block.period none) :=
  (edgeIsTheTransitionOfItsIndex s smp _ rfl).trans ((isCode_decodeTi4 _ smp).exec_stores_sum hacc hsum)

/-- An EDGE whose sum is a detent clears ACC and adjusts PERIOD in the same step (R131, R136). -/
theorem exec_edge_emits {d : Detent} (hper : 10 ≤ s.block.period.toNat ∧ s.block.period.toNat ≤ 3000)
    (hd : detect reference (s.block.acc.toInt + memRead (index s.block.hist smp)) = (0, some d)) :
    exec (.edge smp) s = .next (s.afterEdge smp 0
      (BitVec.ofNat 32 (adjustedPeriod reference d s.block.period.toNat)) (some d)) :=
  (edgeIsTheTransitionOfItsIndex s smp _ rfl).trans ((isCode_decodeTi4 _ smp).exec_emits hacc hper hd)

end Edge

/-- Settles O19: the sum is 4, or -4, or, a step being at most 1, inside -3 to 3 again. -/
theorem edgeOperation : Obligations.EdgeOperation := by
  refine ⟨encode_edge, fun s smp halo hahi hplo hphi => ⟨fun hsum => ?cw, fun hsum => ?ccw, fun hpos hneg => ?none⟩⟩
  case cw =>
    have hd : detect reference (s.block.acc.toInt + memRead (index s.block.hist smp)) = (0, some .cw) := by
      rw [hsum]; rfl
    rw [exec_edge_emits ⟨halo, hahi⟩ ⟨hplo, hphi⟩ hd, adjustedPeriod, shrunkPeriod_reference hphi]
  case ccw =>
    have hd : detect reference (s.block.acc.toInt + memRead (index s.block.hist smp)) = (0, some .ccw) := by
      rw [hsum]; rfl
    rw [exec_edge_emits ⟨halo, hahi⟩ ⟨hplo, hphi⟩ hd, adjustedPeriod, grownPeriod_reference hplo]
  case none =>
    have hstep := memRead_bounds (index s.block.hist smp)
    have hsum : -4 < s.block.acc.toInt + memRead (index s.block.hist smp) ∧
        s.block.acc.toInt + memRead (index s.block.hist smp) < 4 := by omega
    obtain ⟨hlo, hhi⟩ := hsum
    exact ⟨_, toInt_ofInt_acc reference_admitted hlo hhi, exec_edge_stores_sum ⟨halo, hahi⟩ (by omega)⟩

/-- A sample seen again is a hold: its step is its own negative (R112 (c)). -/
theorem memRead_index_self (smp : Sample) : memRead (index smp smp) = 0 := by
  have hswap := memRead_index_swap smp smp
  omega

/-- Settles O20: a hold stores ACC as it was. -/
theorem repeatedSampleChangesNoRegister : Obligations.RepeatedSampleChangesNoRegister := by
  intro s hlo hhi
  have hhold := memRead_index_self s.block.hist
  have hexec := exec_edge_stores_sum (smp := s.block.hist) ⟨hlo, hhi⟩ (by omega)
  rwa [hhold, add_zero, BitVec.ofInt_toInt] at hexec

/-- Settles O21: EDGE and the codes are all transitions, and those touch of the environment the indications alone. -/
theorem everyEdgeAcknowledgesBothLines : Obligations.EveryEdgeAcknowledgesBothLines := by
  refine ⟨fun _ => rfl, fun i s t hi h => ?_⟩
  obtain ⟨ti, -, hexec⟩ := exec_of_isEdge hi s
  obtain ⟨henv, -⟩ := transition_frame (hexec ▸ h)
  exact henv

/-! ### Runs of EDGEs too short for a detent -/

/-- EDGEs too few to bring ACC to the threshold emit no detent: ACC takes the sum of their steps, and PERIOD is not
read. -/
theorem run_edges_below_threshold {l : List Sample} {s : State} {rest : List Input} (hb : s.booted = true)
    (hlo : -3 ≤ s.block.acc.toInt - l.length) (hhi : s.block.acc.toInt + l.length ≤ 3)
    (hin : s.input = edgeInputs l ++ rest) :
    ∃ t, run l.length s = .next t ∧ t.booted = true ∧ t.input = rest ∧ t.block.hist = l.getLastD s.block.hist ∧
      t.block.acc.toInt = s.block.acc.toInt + (stepsFrom s.block.hist l).sum ∧
      t.block.period = s.block.period ∧ detents t.history = detents s.history := by
  induction l generalizing s with
  | nil => exact ⟨s, rfl, hb, hin, rfl, (add_zero _).symm, rfl, rfl⟩
  | cons smp l ih =>
    rw [List.length_cons] at hlo hhi
    have hstep := memRead_bounds (index s.block.hist smp)
    have hsum : -4 < s.block.acc.toInt + memRead (index s.block.hist smp) ∧
        s.block.acc.toInt + memRead (index s.block.hist smp) < 4 := by omega
    obtain ⟨u, hu, hub, huin, huhist, huacc, huper, huquiet⟩ :=
      step_edge_below_threshold hb ((accLegal_reference_iff _).mpr (by omega)) hsum hin
    obtain ⟨t, hrun, htb, htin, hthist, htacc, htper, htquiet⟩ := ih hub (by omega) (by omega) huin
    refine ⟨t, (run_succ hu).trans hrun, htb, htin, ?_, ?_, htper.trans huper, htquiet.trans huquiet⟩
    · rw [hthist, huhist, List.getLastD_cons]
    · rw [htacc, huacc, huhist, stepsFrom, List.sum_cons, add_assoc]

/-- Settles O26: from ACC 0 three steps do not reach the threshold. -/
theorem noDetentWithinThreeEdges : Obligations.NoDetentWithinThreeEdges := by
  intro l s rest hl hb hacc hin
  have hzero : s.block.acc.toInt = 0 := hacc ▸ rfl
  obtain ⟨t, hrun, -, -, -, -, hper, hquiet⟩ :=
    run_edges_below_threshold hb (by omega) (by omega) hin
  exact ⟨t, hrun, hquiet, hper⟩

/-! ### One cycle -/

/-- Each step of a walk is at most 1 in magnitude (R112 (e)). -/
theorem sum_stepsFrom_bounds (h : Sample) (l : List Sample) :
    -(l.length : Int) ≤ (stepsFrom h l).sum ∧ (stepsFrom h l).sum ≤ l.length := by
  induction l generalizing h with
  | nil => exact ⟨le_rfl, le_rfl⟩
  | cons smp l ih =>
    have hstep := memRead_bounds (index h smp)
    have hrest := ih smp
    rw [stepsFrom, List.sum_cons, List.length_cons]
    omega

/-- A delivered EDGE whose sum is a detent returns it, clears ACC and adjusts PERIOD. -/
theorem step_edge_emits {s : State} {smp : Sample} {l : List Sample} {rest : List Input} {d : Detent}
    (hb : s.booted = true) (hacc : -3 ≤ s.block.acc.toInt ∧ s.block.acc.toInt ≤ 3)
    (hper : 10 ≤ s.block.period.toNat ∧ s.block.period.toNat ≤ 3000)
    (hd : detect reference (s.block.acc.toInt + memRead (index s.block.hist smp)) = (0, some d))
    (hin : s.input = edgeInputs (smp :: l) ++ rest) :
    ∃ t, step s = .next t ∧ detents t.history = d :: detents s.history ∧ t.block.hist = smp ∧ t.block.acc = 0 ∧
      t.block.period.toNat = adjustedPeriod reference d s.block.period.toNat := by
  obtain ⟨hlo, hhi⟩ := hper
  obtain ⟨-, hfits⟩ := adjustedPeriod_bounds (c := reference) d hlo hhi
  have hexec := exec_edge_emits (s := { s with input := edgeInputs l ++ rest }) hacc ⟨hlo, hhi⟩ hd
  exact ⟨_, (step_operation rfl hin hb).trans hexec, detents_cons_detent _ _, rfl, rfl,
    toNat_ofNat_period reference_admitted hfits⟩

/-- From ACC 0, EDGEs too few for a detent and then the EDGE whose sum is one: the detent comes at that EDGE and no
earlier. -/
theorem run_edges_to_detent {l : List Sample} {smp : Sample} {d : Detent} {s : State} {rest : List Input}
    (hb : s.booted = true) (hacc : s.block.acc = 0)
    (hper : 10 ≤ s.block.period.toNat ∧ s.block.period.toNat ≤ 3000) (hl : l.length ≤ 3)
    (hd : detect reference ((stepsFrom s.block.hist l).sum + memRead (index (l.getLastD s.block.hist) smp)) =
      (0, some d))
    (hin : s.input = edgeInputs l ++ (edgeInputs [smp] ++ rest)) :
    ∃ t u, run l.length s = .next t ∧ detents t.history = detents s.history ∧
      run (l.length + 1) s = .next u ∧ detents u.history = d :: detents s.history ∧
      u.block.hist = smp ∧ u.block.acc = 0 ∧
      u.block.period.toNat = adjustedPeriod reference d s.block.period.toNat := by
  have hzero : s.block.acc.toInt = 0 := hacc ▸ rfl
  obtain ⟨t, hrun, htb, htin, hthist, htacc, htper, htquiet⟩ :=
    run_edges_below_threshold hb (by omega) (by omega) hin
  rw [hzero, zero_add] at htacc
  rw [← htacc, ← hthist] at hd
  have hsum := sum_stepsFrom_bounds s.block.hist l
  obtain ⟨u, hu, huemits, huhist, huacc, huper⟩ := step_edge_emits htb (by omega) (htper ▸ hper) hd htin
  exact ⟨t, u, hrun, htquiet, (run_snoc hrun).trans hu, htquiet ▸ huemits, huhist, huacc, htper ▸ huper⟩

/-- Settles O25: the steps of either cycle are four of one sign, and sum to the threshold at the fourth. -/
theorem oneCycleIsOneDetent : Obligations.OneCycleIsOneDetent := by
  intro s rest hb hhist hacc hplo hphi
  refine ⟨fun hin => ?plus, fun hin => ?minus⟩
  case plus =>
    have hd : detect reference ((stepsFrom s.block.hist [2, 3, 1]).sum + memRead (index 1 0)) = (0, some .cw) := by
      rw [hhist]; rfl
    exact run_edges_to_detent hb hacc ⟨hplo, hphi⟩ le_rfl hd hin
  case minus =>
    have hd : detect reference ((stepsFrom s.block.hist [1, 3, 2]).sum + memRead (index 2 0)) = (0, some .ccw) := by
      rw [hhist]; rfl
    exact run_edges_to_detent hb hacc ⟨hplo, hphi⟩ le_rfl hd hin

end Sys2Proof.Machine

/-!
## The adaptive rate controller (43_adaptive_rate_controller.md)

CLAMP, and the operations that write PERIOD through it; each rate operation from a legal PERIOD; how an update moves
PERIOD between the bounds, at every admitted configuration; and the bounds, at which an update is silent.
-/

namespace Sys2Proof.Machine

/-! ### CLAMP (R150) -/

section Clamp

variable {c : Config} {v : Nat}

theorem clamp_of_le_floor (h : c.floor ≤ c.ceiling) (hv : v ≤ c.floor) : clamp c v = c.floor := by
  rw [clamp, max_eq_right hv, min_eq_left h]

theorem clamp_of_ceiling_le (h : c.floor ≤ c.ceiling) (hv : c.ceiling ≤ v) : clamp c v = c.ceiling := by
  rw [clamp_of_floor_le (h.trans hv), min_eq_right hv]

theorem clamp_of_bounds (hlo : c.floor ≤ v) (hhi : v ≤ c.ceiling) : clamp c v = v := by
  rw [clamp_of_floor_le hlo, min_eq_left hhi]

end Clamp

theorem reference_floor_le_ceiling : reference.floor ≤ reference.ceiling := by decide

/-- PERIOD written back as it was read is PERIOD. -/
theorem ofNat_toNat_period (p : Ticks) : BitVec.ofNat 32 p.toNat = p :=
  (BitVec.ofNat_toNat 32 p).trans (BitVec.setWidth_eq p)

/-- A rate update keeps the value or stores a clamped one (R151, R152). -/
theorem adjustedPeriod_eq_or_clamp (c : Config) (d : Detent) (p : Nat) :
    adjustedPeriod c d p = p ∨ ∃ v, adjustedPeriod c d p = clamp c v := by
  cases d with
  | cw =>
    by_cases hp : c.floor < p
    · exact .inr ⟨_, if_pos hp⟩
    · exact .inl (if_neg hp)
  | ccw =>
    by_cases hp : p < c.ceiling
    · exact .inr ⟨_, if_pos hp⟩
    · exact .inl (if_neg hp)

/-- The same of the 32-bit register: what a rate update writes is PERIOD as it was, or a clamped value. -/
theorem ofNat_adjustedPeriod_eq_or_clamp (c : Config) (d : Detent) (p : Ticks) :
    BitVec.ofNat 32 (adjustedPeriod c d p.toNat) = p ∨
      ∃ v, BitVec.ofNat 32 (adjustedPeriod c d p.toNat) = BitVec.ofNat 32 (clamp c v) := by
  rcases adjustedPeriod_eq_or_clamp c d p.toNat with h | ⟨v, h⟩
  · exact .inl (by rw [h, ofNat_toNat_period])
  · exact .inr ⟨v, congrArg _ h⟩

/-- Settles O27, by what each instruction that completes can have done. -/
theorem periodWritesPassThroughClamp : Obligations.PeriodWritesPassThroughClamp := by
  refine ⟨fun c v h => ?cases, fun v => ?reference, fun i s t hi h => ?writes⟩
  case cases =>
    split_ifs with hlo hhi
    · exact clamp_of_le_floor h hlo.le
    · exact clamp_of_ceiling_le h hhi.le
    · exact clamp_of_bounds (not_lt.mp hlo) (not_lt.mp hhi)
  case reference =>
    split_ifs with hlo hhi
    · exact clamp_of_le_floor reference_floor_le_ceiling hlo
    · exact clamp_of_ceiling_le reference_floor_le_ceiling hhi
    · exact clamp_of_bounds (not_le.mp hlo).le (not_le.mp hhi).le
  case writes =>
    rcases exec_cases h with ⟨-, ti, -, ht⟩ | ⟨-, rfl⟩ | ⟨-, -, rfl⟩ | ⟨v, -, rfl⟩ | ⟨d, -, -, rfl⟩ | ⟨-, ht⟩ | ⟨hr, -⟩
    · obtain ⟨-, ⟨v, -, rfl⟩ | ⟨v, d, -, -, rfl⟩⟩ := transition_next ht
      · exact .inl rfl
      · exact ofNat_adjustedPeriod_eq_or_clamp reference d s.block.period
    · exact .inl rfl
    · exact .inl rfl
    · exact .inr ⟨v.toNat, rfl⟩
    · exact ofNat_adjustedPeriod_eq_or_clamp reference d s.block.period
    · obtain ⟨-, -, rfl⟩ := blink_next ht
      exact .inl rfl
    · exact absurd hr hi

/-! ### Each rate operation from a legal PERIOD -/

@[simp] theorem State.setPeriod_toNat_period (s : State) : s.setPeriod s.block.period.toNat = s := by
  rw [State.setPeriod, ofNat_toNat_period]

theorem applyDetent_of_legal {c : Config} (d : Detent) {s : State} (hp : periodLegal c s.block.period = true) :
    applyDetent c d s = .next (s.setPeriod (adjustedPeriod c d s.block.period.toNat)) :=
  if_pos hp

section Apply

variable {s : State} {p : Nat}

/-- `APPLY_CW` in its two branches; the clamp does not bind (R151). -/
theorem exec_applyCw (hp : s.block.period.toNat = p) (hlo : 10 ≤ p) (hhi : p ≤ 3000) :
    exec .applyCw s = .next (s.setPeriod (if p > 10 then p - p / 10 else p)) := by
  subst hp
  rw [← shrunkPeriod_reference hhi]
  exact applyDetent_of_legal .cw ((periodLegal_reference_iff _).mpr ⟨hlo, hhi⟩)

/-- `APPLY_CCW` in its two branches; of the clamp the upper bound is left (R152). -/
theorem exec_applyCcw (hp : s.block.period.toNat = p) (hlo : 10 ≤ p) (hhi : p ≤ 3000) :
    exec .applyCcw s = .next (s.setPeriod (if p < 3000 then min (p + p / 10) 3000 else p)) := by
  subst hp
  rw [← grownPeriod_reference hlo]
  exact applyDetent_of_legal .ccw ((periodLegal_reference_iff _).mpr ⟨hlo, hhi⟩)

theorem exec_applyCw_at_floor (hp : s.block.period.toNat = 10) : exec .applyCw s = .next s := by
  rw [exec_applyCw rfl hp.ge (by omega), if_neg hp.not_gt, State.setPeriod_toNat_period]

theorem exec_applyCcw_at_ceiling (hp : s.block.period.toNat = 3000) : exec .applyCcw s = .next s := by
  rw [exec_applyCcw rfl (by omega) hp.le, if_neg hp.not_lt, State.setPeriod_toNat_period]

end Apply

/-- `SETP` stores the clamped operand whatever PERIOD was (R154). -/
theorem exec_setp (v : Ticks) (s : State) : exec (.setp v) s = .next (s.setPeriod (clamp reference v.toNat)) := rfl

/-- Settles O28: nine tenths of 11 or more is 10 or more. -/
theorem applyCwShrinksThePeriod : Obligations.ApplyCwShrinksThePeriod := by
  refine ⟨rfl, fun s hlo hhi => ⟨fun hp => ?_, exec_applyCw_at_floor⟩, by decide⟩
  have hfloor : 10 ≤ s.block.period.toNat - s.block.period.toNat / 10 := by omega
  refine ⟨hfloor, clamp_of_bounds hfloor ((Nat.sub_le _ _).trans hhi), ?_⟩
  rw [exec_applyCw rfl hlo hhi, if_pos hp]
  rfl

/-- Settles O29: 2729 + 272 is 3001, the least sum that the clamp binds. -/
theorem applyCcwGrowsThePeriod : Obligations.ApplyCcwGrowsThePeriod := by
  refine ⟨rfl, fun s hlo hhi => ⟨fun hp => ⟨by omega, by omega, ?_⟩, exec_applyCcw_at_ceiling⟩, by decide⟩
  rw [exec_applyCcw rfl hlo hhi, if_pos hp]
  rfl

/-- Settles O30: below, inside and above the bounds. -/
theorem setpClamps : Obligations.SetpClamps := by
  refine fun s v => ⟨rfl, fun hv => ?below, fun hlo hhi => ?inside, fun hv => ?above⟩
  case below =>
    rw [exec_setp, clamp_of_le_floor reference_floor_le_ceiling hv.le]
    rfl
  case inside =>
    rw [exec_setp, clamp_of_bounds hlo hhi, State.setPeriod, ofNat_toNat_period]
  case above =>
    rw [exec_setp, clamp_of_ceiling_le reference_floor_le_ceiling hv.le]
    rfl

theorem exec_getp {s : State} (hp : periodLegal reference s.block.period = true) :
    exec .getp s = .next (s.report (.period s.block.period)) :=
  if_pos hp

/-- Settles O31: a legal PERIOD is read as it stands, and DEFAULT is legal. -/
theorem getpReturnsThePeriod : Obligations.GetpReturnsThePeriod := by
  refine ⟨rfl, fun s hlo hhi => exec_getp ((periodLegal_reference_iff _).mpr ⟨hlo, hhi⟩), fun s => ?_⟩
  have hdefault : periodLegal reference 1000 = true := by decide
  exact ⟨_, _, rfl, exec_getp hdefault, rfl⟩

/-! ### Between the bounds, at every admitted configuration -/

/-- From a legal PERIOD a rate operation completes, writing PERIOD alone, inside the bounds. -/
theorem execWith_rate_operation {c : Config} (hc : c.admitted = true) {s : State} {v : Ticks} {i : Instr}
    (hp : periodLegal c s.block.period = true) (hi : i ∈ ([.applyCw, .applyCcw, .setp v] : List Instr)) :
    ∃ p, execWith c i s = .next (s.setPeriod p) ∧ c.floor ≤ p ∧ p ≤ c.ceiling := by
  obtain ⟨hlo, hhi⟩ := (periodLegal_iff c _).mp hp
  simp only [List.mem_cons, List.not_mem_nil, or_false] at hi
  rcases hi with rfl | rfl | rfl
  · exact ⟨_, (if_pos hc).trans (applyDetent_of_legal .cw hp), adjustedPeriod_bounds .cw hlo hhi⟩
  · exact ⟨_, (if_pos hc).trans (applyDetent_of_legal .ccw hp), adjustedPeriod_bounds .ccw hlo hhi⟩
  · exact ⟨_, if_pos hc, setPeriodValue_bounds v.toNat hlo hhi⟩

/-- Settles O32: what a rate operation writes is inside the bounds, and R7 keeps FLOOR above 0. -/
theorem rateOperationsKeepThePeriodInRange : Obligations.RateOperationsKeepThePeriodInRange := by
  intro c s v i hc hp hi
  obtain ⟨p, hexec, hlo, hhi⟩ := execWith_rate_operation hc hp hi
  have hlegal := periodLegal_ofNat hc hlo hhi
  exact ⟨_, hexec, hlegal, ne_zero_of_periodLegal hc hlegal⟩

/-- A tenth of a PERIOD in range is at least 1, since R7 keeps FLOOR at RATE_DIV or more. -/
theorem tenth_pos {c : Config} (hc : c.admitted = true) {p : Nat} (hlo : c.floor ≤ p) : 0 < p / c.rateDiv := by
  obtain ⟨-, hdiv, ⟨hfloor, -⟩, -⟩ := (admitted_iff c).mp hc
  exact Nat.div_pos (hfloor.trans hlo) (hdiv ▸ Nat.succ_pos 9)

/-- Above FLOOR the shrink is strict (R158). -/
theorem shrunkPeriod_lt {c : Config} (hc : c.admitted = true) {p : Nat} (hlo : c.floor < p) :
    shrunkPeriod c p < p := by
  have htenth := tenth_pos hc hlo.le
  rw [shrunkPeriod, if_pos hlo, clamp]
  omega

theorem shrunkPeriod_floor (c : Config) : shrunkPeriod c c.floor = c.floor :=
  if_neg (lt_irrefl _)

/-- Below CEILING the growth is strict (R158). -/
theorem lt_grownPeriod {c : Config} (hc : c.admitted = true) {p : Nat} (hlo : c.floor ≤ p) (hhi : p < c.ceiling) :
    p < grownPeriod c p := by
  have htenth := tenth_pos hc hlo
  rw [grownPeriod, if_pos hhi, clamp]
  omega

theorem grownPeriod_ceiling (c : Config) : grownPeriod c c.ceiling = c.ceiling :=
  if_neg (lt_irrefl _)

/-- V21: from DEFAULT the 49th shrink is the first to reach FLOOR. -/
theorem shrunkPeriod_iterate_default :
    (shrunkPeriod reference)^[48] 1000 = 11 ∧ (shrunkPeriod reference)^[49] 1000 = 10 := by
  have hhalf : (shrunkPeriod reference)^[24] 1000 = 84 := by decide
  have hrest : (shrunkPeriod reference)^[24] 84 = 11 := by decide
  have hall : (shrunkPeriod reference)^[48] 1000 = 11 := by
    rw [Function.iterate_add_apply _ 24 24, hhalf, hrest]
  exact ⟨hall, by rw [Function.iterate_succ_apply', hall]; rfl⟩

/-- V22: from DEFAULT the 12th growth is the first to reach CEILING. -/
theorem grownPeriod_iterate_default :
    (grownPeriod reference)^[11] 1000 = 2850 ∧ (grownPeriod reference)^[12] 1000 = 3000 := by
  decide

/-- Settles O33: the values read back from the register unchanged, so the updates' own inequalities carry over. -/
theorem rateIsStrictlyMonotone : Obligations.RateIsStrictlyMonotone := by
  obtain ⟨hshrinks, hshrinks'⟩ := shrunkPeriod_iterate_default
  refine ⟨fun c s hc hp => ?_, hshrinks, hshrinks', grownPeriod_iterate_default⟩
  obtain ⟨hlo, hhi⟩ := (periodLegal_iff c _).mp hp
  obtain ⟨-, hfitsCw⟩ := adjustedPeriod_bounds .cw hlo hhi
  obtain ⟨-, hfitsCcw⟩ := adjustedPeriod_bounds .ccw hlo hhi
  have hshrunk := toNat_ofNat_period hc hfitsCw
  have hgrown := toNat_ofNat_period hc hfitsCcw
  refine ⟨_, _, (if_pos hc).trans (applyDetent_of_legal .cw hp), (if_pos hc).trans (applyDetent_of_legal .ccw hp),
    fun h => ?_, fun h => ?_, fun h => ?_, fun h => ?_⟩
  · exact hshrunk.trans_lt (shrunkPeriod_lt hc h)
  · exact BitVec.eq_of_toNat_eq (hshrunk.trans (h ▸ shrunkPeriod_floor c))
  · exact (lt_grownPeriod hc hlo h).trans_eq hgrown.symm
  · exact BitVec.eq_of_toNat_eq (hgrown.trans (h ▸ grownPeriod_ceiling c))

/-! ### At the bounds -/

/-- The words of an operation that leaves the state, at any deliveries, are taken one after the other and leave it. -/
theorem run_of_fixed {i : Instr} (hi : i.transitionIndex = none) {n : Nat} {s : State} {rest : List Input}
    (hb : s.booted = true) (hfix : ∀ l, exec i { s with input := l } = .next { s with input := l })
    (hin : s.input = List.replicate n (.word (encode i)) ++ rest) : run n s = .next { s with input := rest } := by
  induction n generalizing s with
  | zero => rw [← show s.input = rest from hin, run_zero]
  | succ n ih =>
    have hstep := (step_operation hi hin hb).trans (hfix _)
    exact (run_succ hstep).trans (ih hb hfix rfl)

/-- Settles O34: 10 shrunk is 10 and 3000 grown is 3000, by an operation or by an EDGE; 10 grown is 11 and 3000 shrunk
is 2700. -/
theorem saturationIsSilent : Obligations.SaturationIsSilent := by
  refine ⟨fun n s rest hb hp => run_of_fixed rfl hb fun _ => exec_applyCw_at_floor (congrArg BitVec.toNat hp),
    fun n s rest hb hp => run_of_fixed rfl hb fun _ => exec_applyCcw_at_ceiling (congrArg BitVec.toNat hp),
    fun s smp hp hacc hstep => ?cwAtFloor, fun s smp hp hacc hstep => ?ccwAtCeiling,
    fun s hp => exec_applyCcw (congrArg BitVec.toNat hp) (by decide) (by decide),
    fun s hp => exec_applyCw (congrArg BitVec.toNat hp) (by decide) (by decide)⟩
  case cwAtFloor =>
    have hd : detect reference (s.block.acc.toInt + memRead (index s.block.hist smp)) = (0, some .cw) := by
      rw [hacc, hstep]; rfl
    rw [exec_edge_emits (by omega) (by rw [hp]; decide) hd, hp]
    rfl
  case ccwAtCeiling =>
    have hd : detect reference (s.block.acc.toInt + memRead (index s.block.hist smp)) = (0, some .ccw) := by
      rw [hacc, hstep]; rfl
    rw [exec_edge_emits (by omega) (by rw [hp]; decide) hd, hp]
    rfl

end Sys2Proof.Machine

/-!
## External interfaces (44_external_interfaces.md)

The edge source: the sample of the lines, and the handler's turn with an indication pending and with none. The blinker:
one tick, and the ticks of one period. NOP.
-/

namespace Sys2Proof.Machine

/-! ### The edge source (R181) -/

/-- A sample as a number is A + 2*B (R61). -/
theorem toNat_sampleOf : ∀ a b : Bool, (sampleOf a b).toNat = a.toNat + 2 * b.toNat := by
  decide

theorem edgePending_iff (s : State) : edgePending s = true ↔ s.env.pendA = true ∨ s.env.pendB = true :=
  Bool.or_eq_true_iff

section Handler

variable {s : State} (hb : s.booted = true)

include hb

theorem acceptHandler_pending (hpend : edgePending s = true) : acceptHandler s = .run (.edge (lineRead s)) s := by
  simp [acceptHandler, hb, hpend]

theorem acceptHandler_idle (hpend : edgePending s = false) : acceptHandler s = .move s := by
  simp [acceptHandler, hb, hpend]

variable {rest : List Input} (hin : s.input = .handler :: rest)

include hin

/-- With an indication pending the handler's turn is the EDGE of the lines as they stand. -/
theorem step_handler_pending (hpend : s.env.pendA = true ∨ s.env.pendB = true) :
    step s = exec (.edge (lineRead s)) { s with input := rest } := by
  have hpend' : edgePending { s with input := rest } = true := (edgePending_iff _).mpr hpend
  have hfetch : fetch s = .run (.edge (lineRead s)) { s with input := rest } :=
    (fetch_handler hin).trans (acceptHandler_pending hb hpend')
  simp only [step, hfetch]

/-- With none pending it takes the delivery alone (log entry 17). -/
theorem step_handler_idle (hA : s.env.pendA = false) (hB : s.env.pendB = false) :
    step s = .next { s with input := rest } := by
  have hpend : edgePending { s with input := rest } = false := Bool.or_eq_false_iff.mpr ⟨hA, hB⟩
  have hfetch : fetch s = .move { s with input := rest } :=
    (fetch_handler hin).trans (acceptHandler_idle hb hpend)
  simp only [step, hfetch]

end Handler

/-- Settles O37: the move of a line by its fields, the sample by its two bits, and the handler's turn with an indication
pending and with none. -/
theorem edgeSourceModel : Obligations.EdgeSourceModel := by
  refine ⟨fun s a b rest hin => ?line, fun s => toNat_sampleOf _ _, fun s rest hin hb =>
    ⟨step_handler_pending hb hin, step_handler_idle hb hin⟩⟩
  case line =>
    have hpend : ∀ pend new old : Bool, (pend || new != old) = true ↔ pend = true ∨ new ≠ old := by decide
    exact ⟨_, step_line hin, rfl, rfl, hpend _ _ _, hpend _ _ _, rfl, rfl, rfl, rfl, rfl, rfl⟩

/-- Settles O38: both deliveries run the same EDGE on the same state. -/
theorem handlerEdgeIsAnEventWord : Obligations.HandlerEdgeIsAnEventWord := by
  intro s rest hb hpend
  have hhandler := step_handler_pending (s := { s with input := .handler :: rest }) hb rfl hpend
  have hword := step_operation (i := .edge (lineRead s))
    (s := { s with input := .word (encode (.edge (lineRead s))) :: rest }) rfl rfl hb
  exact hhandler.trans hword.symm

/-! ### The blinker (R183, R184) -/

/-- Settles O35: the tick from a legal PERIOD completes, and the state it leaves is the one a completed tick leaves. -/
theorem tickCountsModuloThePeriod : Obligations.TickCountsModuloThePeriod := by
  refine ⟨rfl, fun s => ⟨fun hz => if_pos hz, fun hlo hhi => ?_⟩⟩
  obtain ⟨t, ht⟩ := exec_next_of_periodLegal (i := .tick) rfl ((periodLegal_reference_iff _).mpr ⟨hlo, hhi⟩)
  obtain ⟨-, -, rfl⟩ := blink_next ht
  exact ht

/-- A delivered TICK at a legal PERIOD: the counter moves on modulo PERIOD, and OUT is inverted at 0. -/
theorem step_tick {k : Nat} {s : State} {rest : List Input} (hb : s.booted = true)
    (hlo : 10 ≤ s.block.period.toNat) (hhi : s.block.period.toNat ≤ 3000)
    (hin : s.input = tickInputs (k + 1) ++ rest) :
    ∃ u, step s = .next u ∧ u.block = s.block ∧ u.booted = true ∧ u.input = tickInputs k ++ rest ∧
      u.env.tickCnt.toNat = (s.env.tickCnt.toNat + 1) % s.block.period.toNat ∧
      u.env.out = if (s.env.tickCnt.toNat + 1) % s.block.period.toNat = 0 then !s.env.out else s.env.out := by
  obtain ⟨-, htick⟩ := tickCountsModuloThePeriod
  obtain ⟨-, hexec⟩ := htick { s with input := tickInputs k ++ rest }
  have hreduced : (s.env.tickCnt.toNat + 1) % s.block.period.toNat ≤ 3000 :=
    (Nat.mod_lt _ (by omega)).le.trans hhi
  exact ⟨_, (step_operation rfl hin hb).trans (hexec hlo hhi), rfl, hb, rfl,
    toNat_ofNat_period reference_admitted hreduced, rfl⟩

/-- Settles O36, by induction on the ticks: one below PERIOD - 1 leaves OUT, and the one at PERIOD - 1 inverts it and
leaves too few behind it for a second wrap. -/
theorem outTogglesOncePerPeriod : Obligations.OutTogglesOncePerPeriod := by
  intro k
  induction k with
  | zero =>
    intro s rest _ _ _ hcnt _ _
    exact ⟨s, rfl, rfl, (Nat.mod_eq_of_lt hcnt).symm, (if_pos hcnt).symm⟩
  | succ k ih =>
    intro s rest hb hlo hhi hcnt hk hin
    obtain ⟨u, hstep, hblock, hub, huin, hucnt, huout⟩ := step_tick hb hlo hhi hin
    have hreduced : u.env.tickCnt.toNat < s.block.period.toNat := hucnt ▸ Nat.mod_lt _ (by omega)
    have hrest := ih u rest hub
    rw [hblock] at hrest
    obtain ⟨t, hrun, htblock, htcnt, htout⟩ := hrest hlo hhi hreduced (k.le_succ.trans hk) huin
    have hticks : s.env.tickCnt.toNat + 1 + k = s.env.tickCnt.toNat + (k + 1) := by omega
    refine ⟨t, (run_succ hstep).trans hrun, htblock, ?count, ?out⟩
    case count =>
      rw [htcnt, hucnt, Nat.mod_add_mod, hticks]
    case out =>
      have hnext : s.env.tickCnt.toNat + 1 ≤ s.block.period.toNat := hcnt
      rcases hnext.lt_or_eq with hbelow | hwrap
      · rw [Nat.mod_eq_of_lt hbelow] at hucnt huout
        rw [htout, huout, hucnt, if_neg (Nat.succ_ne_zero _), hticks]
      · rw [hwrap, Nat.mod_self] at hucnt huout
        rw [htout, huout, hucnt, if_pos rfl, if_pos (by omega), if_neg (by omega)]

/-! ### NOP (R185) -/

/-- Settles O39: NOP answers the state it is given. -/
theorem nopChangesNothing : Obligations.NopChangesNothing :=
  ⟨rfl, fun _ => rfl⟩

end Sys2Proof.Machine

/-!
## Exceptions (60_exceptions.md)

No instruction and no step fails from a legal state, and what a booted machine refuses. A TICK and an EDGE that are ready
together, in either order.
-/

namespace Sys2Proof.Machine

/-! ### What a step refuses (R200, R201) -/

/-- A word is refused because it spells no operation, comes before the first RESET, or is a code whose index the state
cannot form. -/
theorem acceptWord_refuse {w : EventWord} {s : State} {r : Refusal} (h : acceptWord w s = .refuse r) :
    (∃ x, r = .illegalWord x) ∨ (s.booted = false ∧ r = .beforeReset) ∨
    ((∃ ti, w = .ti4 ti) ∧ r = .indexNotFormed) := by
  unfold acceptWord at h
  split at h
  · next x _ =>
    cases h
    exact .inl ⟨x, rfl⟩
  · split at h
    · next hearly =>
      cases h
      obtain ⟨hb, -⟩ := Bool.and_eq_true_iff.mp hearly
      exact .inr (.inl ⟨(Bool.not_eq_true' _).mp hb, rfl⟩)
    · split at h
      · cases h
      · next hindex =>
        cases h
        simp only [indexFormed_iff, not_forall] at hindex
        obtain ⟨ti, hcode, -⟩ := hindex
        exact .inr (.inr ⟨⟨ti, hcode⟩, rfl⟩)

/-- After the first RESET the handler's turn is never refused. -/
theorem acceptHandler_ne_refuse {s : State} (hb : s.booted = true) (r : Refusal) : acceptHandler s ≠ .refuse r := by
  cases hpend : edgePending s with
  | true => rw [acceptHandler_pending hb hpend]; nofun
  | false => rw [acceptHandler_idle hb hpend]; nofun

/-- After the first RESET the fetch refuses a word that spells no operation, and else only a transition code. -/
theorem fetch_refuse_of_booted {s : State} {r : Refusal} (hb : s.booted = true) (h : fetch s = .refuse r) :
    (∃ x, r = .illegalWord x) ∨ ∃ ti rest, s.input = .word (.ti4 ti) :: rest := by
  cases hin : s.input with
  | nil =>
    rw [fetch_nil s hin] at h
    cases h
  | cons x rest =>
    cases x with
    | word w =>
      rw [fetch_word hin] at h
      rcases acceptWord_refuse h with hillegal | ⟨hearly, -⟩ | ⟨⟨ti, rfl⟩, -⟩
      · exact .inl hillegal
      · cases hb.symm.trans hearly
      · exact .inr ⟨ti, rest, rfl⟩
    | line a b =>
      rw [fetch_line hin] at h
      cases h
    | handler =>
      rw [fetch_handler hin] at h
      exact absurd h (acceptHandler_ne_refuse (s := { s with input := rest }) hb r)
    | envReset a b =>
      rw [fetch_envReset hin] at h
      cases h

/-- No instruction refuses, so what a step refuses its fetch refused. -/
theorem fetch_refuse_of_step_refused {s : State} {r : Refusal} (h : step s = .refused r) : fetch s = .refuse r := by
  unfold step at h
  split at h
  · next i t _ => exact absurd h (exec_ne_refused i t r)
  · cases h
  · next hf =>
    cases h
    exact hf

/-- Taking the delivery leaves ACC and PERIOD legal, and there every instruction completes. -/
theorem step_ne_fault {s : State} (hs : s.Inv reference) (f : Fault) : step s ≠ .fault f := by
  intro h
  unfold step at h
  split at h
  · next i t hf =>
    obtain ⟨x, rest, -, rfl⟩ := fetch_run hf
    obtain ⟨u, hu⟩ := exec_next_of_legal i (hs.withInput rest).acc (hs.withInput rest).period
    cases hu.symm.trans h
  · cases h
  · cases h

/-- Settles O46: at legal registers every instruction completes, so a step stops only where its fetch refuses. -/
theorem nothingFaultsFromALegalState : Obligations.NothingFaultsFromALegalState := by
  intro s hs
  refine ⟨fun i => exec_next_of_legal i hs.acc hs.period, step_ne_fault hs, fun r hb hnotCode h => ?_⟩
  refine (fetch_refuse_of_booted hb (fetch_refuse_of_step_refused h)).resolve_right ?_
  rintro ⟨ti, rest, hin⟩
  exact hnotCode ti rest hin

/-! ### A TICK and an EDGE in either order (R208) -/

/-- What a transition leaves in the block depends on the block alone. -/
theorem transition_of_same_block {c : Config} {ti : Index} {s u e : State} (hblock : u.block = s.block)
    (h : transition c ti s = .next e) : ∃ t, transition c ti u = .next t ∧ t.block = e.block := by
  obtain ⟨hacc, ⟨v, hd, rfl⟩ | ⟨v, d, hd, hp, rfl⟩⟩ := transition_next h
  all_goals rw [transition_eq, hblock, if_pos hacc, hd]
  · exact ⟨_, rfl, rfl⟩
  · exact ⟨_, if_pos hp, rfl⟩

theorem exec_edge_of_same_block {smp : Sample} {s u e : State} (hblock : u.block = s.block)
    (h : exec (.edge smp) s = .next e) : ∃ t, exec (.edge smp) u = .next t ∧ t.block = e.block := by
  rw [exec_of_edgeIndex (edgeIndex_edge smp _)] at h ⊢
  rw [hblock]
  exact transition_of_same_block hblock h

/-- An EDGE records its detent result and nothing else (R28, R131). -/
theorem exec_edge_history {smp : Sample} {s t : State} (h : exec (.edge smp) s = .next t) :
    ∃ d, t.history = .detent d :: s.history := by
  rw [exec_of_edgeIndex (edgeIndex_edge smp s)] at h
  obtain ⟨-, -, -, hhist⟩ := transition_frame h
  exact hhist

/-- A TICK at a legal PERIOD completes, leaves the block and records the PERIOD it read (R183). -/
theorem exec_tick_of_legal {s : State} (hp : periodLegal reference s.block.period = true) :
    ∃ t, exec .tick s = .next t ∧ t.block = s.block ∧ t.history = .tickRead s.block.period :: s.history := by
  obtain ⟨t, ht⟩ := exec_next_of_periodLegal (i := .tick) rfl hp
  obtain ⟨-, -, rfl⟩ := blink_next ht
  exact ⟨_, ht, rfl, rfl⟩

/-- Settles O59: the TICK leaves the block as it found it, and what the EDGE leaves there depends on the block alone. -/
theorem tickAndEdgeCommuteOnTheBlock : Obligations.TickAndEdgeCommuteOnTheBlock := by
  intro s smp hs
  obtain ⟨e, he⟩ := exec_next_of_legal (.edge smp) hs.acc hs.period
  obtain ⟨d, hedgeHist⟩ := exec_edge_history he
  obtain ⟨k, hk, hkblock, hkhist⟩ := exec_tick_of_legal hs.period
  obtain ⟨t, ht, htblock⟩ := exec_edge_of_same_block hkblock he
  obtain ⟨d', hthist⟩ := exec_edge_history ht
  obtain ⟨u, hu, hublock, huhist⟩ := exec_tick_of_legal (exec_keeps_inv hs he).period
  have htickFirst : andThen (exec .tick s) (exec (.edge smp)) = .next t := by rw [hk, andThen_next, ht]
  have hedgeFirst : andThen (exec (.edge smp) s) (exec .tick) = .next u := by rw [he, andThen_next, hu]
  exact ⟨e, t, u, he, htickFirst, hedgeFirst, htblock, hublock,
    ⟨d', hkhist ▸ hthist⟩, ⟨d, hedgeHist ▸ huhist⟩⟩

end Sys2Proof.Machine

/-!
## Reset and hazards (70_reset_and_hazards.md)

What is delivered before the first RESET, and RESET itself. The steps that missed edges leave, and the step of the first
EDGE after RESET. A machine with nothing delivered.
-/

namespace Sys2Proof.Machine

/-! ### RESET (R230) -/

/-- RESET's whole next state. -/
theorem exec_reset (s : State) :
    exec .reset s = .next { s with block := { hist := 0, acc := 0, period := 1000 }, booted := true } := rfl

/-- RESET's word is performed whether or not a RESET has completed. -/
theorem step_reset {s : State} {rest : List Input} (hin : s.input = .word (encode .reset) :: rest) :
    step s = exec .reset { s with input := rest } :=
  step_word hin (decodeInvertsEncode .reset) (.inr rfl) rfl

/-- Settles O41: of the state RESET writes the block, and beside it the flag alone. -/
theorem resetOperation : Obligations.ResetOperation :=
  ⟨rfl, fun s => ⟨_, exec_reset s, rfl, rfl, rfl, rfl⟩⟩

/-! ### Before the first RESET (R233) -/

section BeforeReset

variable {s : State} {rest : List Input} (hb : s.booted = false)

include hb

theorem acceptWord_beforeReset {w : EventWord} {i : Instr} (hd : decode w = .ok i) (hi : i ≠ .reset) :
    acceptWord w s = .refuse .beforeReset := by
  simp [acceptWord, hd, hb, hi]

theorem acceptHandler_beforeReset : acceptHandler s = .refuse .beforeReset := by
  simp [acceptHandler, hb]

/-- A word other than RESET's spells no operation, or an operation that is not RESET. -/
theorem step_word_beforeReset {w : EventWord} (hin : s.input = .word w :: rest) (hw : w ≠ encode .reset) :
    ∃ r, step s = .refused r := by
  cases hd : decode w with
  | error r => exact ⟨_, step_illegalWord hin hd⟩
  | ok i =>
    have hi : i ≠ .reset := fun h => hw (h ▸ (encode_of_decode hd).symm)
    have hfetch : fetch s = .refuse .beforeReset :=
      (fetch_word hin).trans (acceptWord_beforeReset (s := { s with input := rest }) hb hd hi)
    exact ⟨.beforeReset, by simp only [step, hfetch]⟩

/-- The handler's turn is refused before the indications are looked at (R187). -/
theorem step_handler_beforeReset (hin : s.input = .handler :: rest) : step s = .refused .beforeReset := by
  have hfetch : fetch s = .refuse .beforeReset :=
    (fetch_handler hin).trans (acceptHandler_beforeReset (s := { s with input := rest }) hb)
  simp only [step, hfetch]

end BeforeReset

/-- Settles O43, by the delivery: another word, RESET's word, the handler's turn. -/
theorem beforeTheFirstReset : Obligations.BeforeTheFirstReset := by
  intro s rest hb
  refine ⟨fun w hin => ⟨step_word_beforeReset hb hin, ?reset⟩, step_handler_beforeReset hb⟩
  case reset =>
    rintro rfl
    exact ⟨_, (step_reset hin).trans (exec_reset _), rfl, rfl⟩

/-! ### Missed edges (R245) -/

/-- Two quarter-steps of one sign lead to the opposite sample: both lines differ. -/
theorem eq_not_of_two_steps : ∀ p q r : Sample, memRead (index p q) ≠ 0 →
    memRead (index q r) = memRead (index p q) → r = ~~~p := by
  decide

/-- A double transition has step 0. -/
theorem memRead_index_not : ∀ p : Sample, memRead (index p (~~~p)) = 0 := by
  decide

/-- From the opposite sample every step is the opposite. -/
theorem memRead_not_index : ∀ p u : Sample, memRead (index (~~~p) u) = -memRead (index p u) := by
  decide

/-- Settles O13: after two steps the sample is the opposite one, and the third step starts there. -/
theorem missedQuarterSteps : Obligations.MissedQuarterSteps := by
  intro p q r u hvalid htwo hthree
  obtain rfl : r = ~~~p := eq_not_of_two_steps p q r hvalid htwo
  rw [memRead_not_index] at hthree
  exact ⟨memRead_index_not p, neg_eq_iff_eq_neg.mp hthree⟩

/-! ### The first EDGE after RESET (R247) -/

/-- Settles O14: each of the two steps is between -1 and 1; from the histories 0 and 3 the samples 2 and 1 are decoded
as opposite steps. -/
theorem resetHistoryErrorIsAtMostTwo : Obligations.ResetHistoryErrorIsAtMostTwo := by
  refine ⟨fun h s => ?_, rfl, rfl⟩
  obtain ⟨hdecodedLo, hdecodedHi⟩ := memRead_bounds (index 0 s)
  obtain ⟨hrealLo, hrealHi⟩ := memRead_bounds (index h s)
  exact abs_le.mpr ⟨by omega, by omega⟩

/-! ### Nothing delivered (R231) -/

/-- Settles O40, by induction on the number of steps, each of which answers the same state. -/
theorem nothingDeliveredChangesNothing : Obligations.NothingDeliveredChangesNothing := by
  intro n s hin
  induction n with
  | zero => exact run_zero s
  | succ n ih => exact (run_succ (step_nil hin)).trans ih

end Sys2Proof.Machine
